-- ==== Sys2Proof/Word.lean ====
section
/-!
DEFINITION. The words of the batguard relay link: a byte, a host command word, a relay frame as one number
(spec/00_scope.md R9, spec/30_encoding.md R90).
-/

namespace Sys2Proof

/-- A byte, an unsigned integer 0..255 (00_scope.md R9). -/
abbrev Byte := BitVec 8

/-- A host command word, format `HOST_CMD` (30_encoding.md R101). -/
abbrev HostWord := BitVec 16

/-- A relay frame shown as one 32-bit number, `f[0]` in bits 31:24 (00_scope.md R9). -/
abbrev FrameWord := BitVec 32

end Sys2Proof
end

