-- ==== Sys2Proof/Syntax.lean ====
section
/-!
DEFINITION. The instructions of the batguard relay link, one constructor per row of spec/opcode_table.json, and the closed
sets Command and Error (spec/30_encoding.md R94, R95).
-/

namespace Sys2Proof

/-- The closed set `Command` (30_encoding.md R94). Codes 8..15 name no Command and are never produced. -/
inductive Command where
  | off | on | offCheck | onCheck | negateCheck | check
  /-- The sentinel NONE: no feedback expected, nothing to report. -/
  | none
  /-- The sentinel ERROR: see `res_err`. -/
  | error
  deriving DecidableEq, Repr, Inhabited

/-- The closed set `Error` (30_encoding.md R95). Codes 12..15 are never produced. -/
inductive ErrCode where
  | no | noRecv | noSend | wrngCrc | wrngRel | wrngCom | wrngSta
  | invChan | empty | badState | illOp | fatal
  deriving DecidableEq, Repr, Inhabited

/-- The two directions of a relay frame; they alone tell FB_OFF from FRAME.OFF (30_encoding.md R93, R109). -/
inductive Direction where
  /-- A command frame, on `txd`. -/
  | toRelay
  /-- A feedback frame, on `rxd`. -/
  | fromRelay
  deriving DecidableEq, Repr, Inhabited

/-- What an instruction is encoded in: a host command word, or a relay frame with its direction (30_encoding.md R90). -/
inductive CodeWord where
  | hostCmd (w : HostWord)
  | relayFrame (d : Direction) (w : FrameWord)
  deriving DecidableEq, Repr, Inhabited

/-- One constructor per row of the opcode table (30_encoding.md R109). `a` is a CSR index, `cmd` and `code` a 4-bit Command
code, `ch` a channel, `ck` the checksum byte of a frame. Fields an operation ignores (R101) are not carried. -/
inductive Instr where
  /-- RESERVED0, `op = 0` (30_encoding.md R104). -/
  | reserved0
  /-- CFGWR (40_transport_ops.md R138). -/
  | cfgwr (a : BitVec 4) (v : Byte)
  /-- OPEN (40_transport_ops.md R130). -/
  | openLink
  /-- ENQ (40_transport_ops.md R131). -/
  | enq (b : Byte)
  /-- FLUSH (40_transport_ops.md R132). -/
  | flush
  /-- POLL (40_transport_ops.md R133). -/
  | poll
  /-- DEQ (40_transport_ops.md R134). -/
  | deq
  /-- PENDW (40_transport_ops.md R135). -/
  | pendw
  /-- PENDR (40_transport_ops.md R136). -/
  | pendr
  /-- INIT (43_protocol_driver.md R228). -/
  | init
  /-- SEND, the generic row (43_protocol_driver.md R220). -/
  | send (cmd : BitVec 4) (ch : Byte)
  /-- SEND.OFF (43_protocol_driver.md R212). -/
  | sendOff (ch : Byte)
  /-- SEND.ON (43_protocol_driver.md R213). -/
  | sendOn (ch : Byte)
  /-- SEND.OFF_CHECK (43_protocol_driver.md R214). -/
  | sendOffCheck (ch : Byte)
  /-- SEND.ON_CHECK (43_protocol_driver.md R215). -/
  | sendOnCheck (ch : Byte)
  /-- SEND.NEGATE_CHECK (43_protocol_driver.md R216). -/
  | sendNegateCheck (ch : Byte)
  /-- SEND.CHECK (43_protocol_driver.md R217). -/
  | sendCheck (ch : Byte)
  /-- SEND.NONE (43_protocol_driver.md R218). -/
  | sendNone (ch : Byte)
  /-- SEND.ERROR (43_protocol_driver.md R219). -/
  | sendError (ch : Byte)
  /-- SEND.RESERVED, Command codes 8..15 (43_protocol_driver.md R219). -/
  | sendReserved (code : BitVec 4) (ch : Byte)
  /-- RECV (43_protocol_driver.md R222). -/
  | recv
  /-- COMPOSE (43_protocol_driver.md R230). -/
  | compose (relayWanted feedbackWanted : Bool)
  /-- CMD2BOOL (43_protocol_driver.md R231). -/
  | cmd2bool (cmd : BitVec 4)
  /-- RDSTATE (43_protocol_driver.md R229). -/
  | rdstate (ch : Byte)
  /-- RDCSR (40_transport_ops.md R139). -/
  | rdcsr (a : BitVec 4)
  /-- FRAME.OFF (43_protocol_driver.md R212). -/
  | frameOff (ch ck : Byte)
  /-- FRAME.ON (43_protocol_driver.md R213). -/
  | frameOn (ch ck : Byte)
  /-- FRAME.OFF_CHECK (43_protocol_driver.md R214). -/
  | frameOffCheck (ch ck : Byte)
  /-- FRAME.ON_CHECK (43_protocol_driver.md R215). -/
  | frameOnCheck (ch ck : Byte)
  /-- FRAME.NEGATE_CHECK (43_protocol_driver.md R216). -/
  | frameNegateCheck (ch ck : Byte)
  /-- FRAME.CHECK (43_protocol_driver.md R217). -/
  | frameCheck (ch ck : Byte)
  /-- FB_OFF (43_protocol_driver.md R232). -/
  | fbOff (ch ck : Byte)
  /-- FB_ON (43_protocol_driver.md R233). -/
  | fbOn (ch ck : Byte)
  deriving DecidableEq, Repr, Inhabited

end Sys2Proof
end

