-- ==== Sys2Proof/Machine/Framer.lean ====
section
/-!
DEFINITION. The framer: checksum calculator, frame builder, marker and checksum check
(spec/42_framer.md R190 to R195; frame layout spec/30_encoding.md R91).
-/

namespace Sys2Proof

/-- The 4 bytes of a frame, `f0` first on the wire (00_scope.md R9; 20_memory.md R62). -/
structure Frame where
  f0 : Byte
  f1 : Byte
  f2 : Byte
  f3 : Byte
  deriving DecidableEq, Repr, Inhabited

/-- The marker `0xA0` (30_encoding.md R91). -/
def marker : Byte := 0xA0#8

/-- `Cks(m, c, k) = (m + c + k) mod 256` (42_framer.md R190). -/
def cks (m c k : Byte) : Byte := BitVec.ofNat 8 ((m.toNat + c.toNat + k.toNat) % 256)

/-- `MkFrame(ch, code)` (42_framer.md R191). -/
def mkFrame (ch code : Byte) : Frame := { f0 := marker, f1 := ch, f2 := code, f3 := cks marker ch code }

/-- `Valid(f)` (42_framer.md R192). -/
def Frame.valid (f : Frame) : Bool := f.f0 == marker && f.f3 == cks f.f0 f.f1 f.f2

/-- The bytes of a frame in the order they travel (20_memory.md R62). -/
def Frame.bytes (f : Frame) : List Byte := [f.f0, f.f1, f.f2, f.f3]

/-- The frame shown as one 32-bit number (00_scope.md R9). -/
def Frame.toWord (f : Frame) : FrameWord := f.f0 ++ f.f1 ++ f.f2 ++ f.f3

/-- The frame a 32-bit number shows (00_scope.md R9). -/
def Frame.ofWord (w : FrameWord) : Frame :=
  { f0 := w.extractLsb' 24 8, f1 := w.extractLsb' 16 8, f2 := w.extractLsb' 8 8, f3 := w.extractLsb' 0 8 }

end Sys2Proof
end

