-- ==== Sys2Proof/Config.lean ====
section
/-!
DEFINITION. What an implementation fixes (the static parameters of spec/00_scope.md R6), the inputs of the block
(spec/00_scope.md R8, spec/41_line_engine.md R161), and the one free value of the model, the unconstrained input stream.
-/

namespace Sys2Proof

/-- The static parameters (00_scope.md R6). No step changes them. -/
structure Config where
  /-- `N`, the number of relay channels. -/
  channels : Nat
  /-- `CAP`, the capacity of `txq` and of `rxq`. -/
  cap : Nat
  /-- `TXS_DEPTH`, the capacity of `tx_stage`. -/
  txsDepth : Nat
  /-- `RXS_DEPTH`, the capacity of `rx_stage`. -/
  rxsDepth : Nat
  /-- `CLK_HZ`, the frequency of `clk`. -/
  clkHz : Nat
  deriving DecidableEq, Repr, Inhabited

/-- The default values of 00_scope.md R6. DESIGN CHOICE (log entry 1): `State.reset` is built with them. -/
def Config.default : Config :=
  { channels := 8, cap := 128, txsDepth := 16, rxsDepth := 16, clkHz := 16000000 }

/-- The small configuration of spec/95_test_vectors.md. -/
def Config.small : Config :=
  { channels := 2, cap := 8, txsDepth := 4, rxsDepth := 4, clkHz := 16000000 }

/-- The legal ranges of 00_scope.md R6 (with 90_conflicts.md C6: `CAP` from 7 on). -/
abbrev Config.legal (c : Config) : Prop :=
  1 ≤ c.channels ∧ c.channels ≤ 255 ∧ 7 ≤ c.cap ∧ c.cap ≤ 65535 ∧ 1 ≤ c.txsDepth ∧ c.txsDepth ≤ 65535 ∧
    4 ≤ c.rxsDepth ∧ c.rxsDepth ≤ c.cap - 3 ∧ 1843200 ≤ c.clkHz ∧ c.clkHz % 1000 = 0

/-- One scheduled step of one agent, or reset (00_scope.md R8; 70_reset_and_hazards.md R300, R318). The clocked inputs
(`seqClk`, `txClk`, `rxClk`) are one clock cycle of one agent; the others are the byte-level, untimed steps. -/
inductive Input where
  /-- A code word stands at the sequencer: the host presents a command word (30_encoding.md R100), or a relay frame is
  handled alone (log entry 7). -/
  | present (c : CodeWord)
  /-- One clock cycle of `Seq`, with the level of `dev_ready` in it (10_state.md R26; 40_transport_ops.md R130). -/
  | seqClk (devReady : Bool)
  /-- One clock cycle of `TxLine` (41_line_engine.md R164). -/
  | txClk
  /-- One clock cycle of `RxLine`, with the level of `rxd` in it (41_line_engine.md R168). -/
  | rxClk (rxd : Bool)
  /-- The end of the wait in progress, untimed (10_state.md R26, last sentences). -/
  | waitEnd
  /-- `TxStart`, byte level (41_line_engine.md R163). -/
  | txStart
  /-- `TxDone`, byte level (41_line_engine.md R163). -/
  | txDone
  /-- `Deliver(b)`, byte level, with the choice of a good or a bad character (41_line_engine.md R161, R167). -/
  | deliver (b : Byte) (good : Bool)
  /-- `rst_n` low (70_reset_and_hazards.md R300). -/
  | reset
  deriving DecidableEq, Repr, Inhabited

/-- FREE VALUE (log entry 2): the n-th input where the schedule in State is empty. Nothing constrains it: the host and the
environment are unconstrained (41_line_engine.md R161; 93_implementation_defined.md U5, U19). -/
opaque Config.freeInput : Nat → Input

end Sys2Proof
end

