-- ==== Sys2Proof/Machine/State.lean ====
section
/-!
DEFINITION. The state of the batguard relay link as plain data (spec/10_state.md R20 and R21 to R52), the model's own fields
(log entries 2 and 18), the fault and refusal types, and the state after reset (R52).
-/

namespace Sys2Proof.Machine

/-- No operation stops the machine: "every operation is total and every error leaves a defined state"
(70_reset_and_hazards.md R310; 40_transport_ops.md R137). So there is no fault. -/
inductive Fault where
  deriving DecidableEq, Repr

/-- Why a step has no meaning. -/
inductive Refusal where
  /-- Raised by `exec` for an instruction that has no meaning yet; safe. -/
  | notModelled (mnemonic : String)
  /-- Raised by `step` when a 32-bit number presented as a command frame is none: its marker is not `0xA0`, its code is above 5
  ("the block never transmits them", 30_encoding.md R99), or its checksum is wrong, so that it selects no row (R109). Safe: the machine stops where the hardware has no such
  step (log entry 7). -/
  | notCommandFrame
  deriving DecidableEq, Repr

/-- The sequencer state `seq` (10_state.md R24). -/
inductive Seq where
  | idle | openTry | openDelay | sendWait
  deriving DecidableEq, Repr, Inhabited

/-- The link state `link` (10_state.md R41). `opened` is the spec's `OPEN`. -/
inductive Link where
  | closed | opening | opened | fatal
  deriving DecidableEq, Repr, Inhabited

/-- `STATUS.FCAUSE` (10_state.md R35); the values 3..7 never occur. -/
inductive FCause where
  | none | openFail | badBool
  deriving DecidableEq, Repr, Inhabited

/-- The transmit shifter `tx_sh` (10_state.md R47): `busy b c k p` sends the character `c` of byte `b`, bit `k` is on `txd`,
`p` clock cycles are left for it. The byte is kept for TxDone (41_line_engine.md R163). -/
inductive TxShifter where
  | idle
  | busy (b : Byte) (c : List Bool) (k p : Nat)
  deriving DecidableEq, Repr, Inhabited

/-- The receive shifter `rx_sh` (10_state.md R48): `busy bits k p` has sampled `bits` so far, `k` is the next bit to sample
(0 = the start bit), `p` clock cycles are left until that sample. -/
inductive RxShifter where
  | idle
  | busy (bits : List Bool) (k p : Nat)
  deriving DecidableEq, Repr, Inhabited

/-- The protocol driver's registers (43_protocol_driver.md R210). -/
structure Driver where
  /-- `relayState[1..N]`, index `ch` at position `ch - 1`; there is no register 0 (10_state.md R21). -/
  relayState : List Bool
  /-- `lastChannel` (10_state.md R23). -/
  lastChannel : Byte
  deriving DecidableEq, Repr, Inhabited

/-- The sequencer (10_state.md R24 to R27, R42). -/
structure Sequencer where
  seq : Seq
  /-- The down counter `timer`, `TIMER_W` bits: a count below `2 ^ timerWidth` (10_state.md R26; `State.timerAgrees`). -/
  timer : Nat
  initActive : Bool
  initCh : Byte
  initErrs : Byte
  /-- `pend_op`, the operation being executed (10_state.md R25). Between operations it holds the last accepted word: DESIGN CHOICE,
  log entry 4 (93_implementation_defined.md U24). -/
  pendOp : HostWord
  attempts : Byte
  deriving DecidableEq, Repr, Inhabited

/-- The five writable control registers (10_state.md R31 to R34). -/
structure Csrs where
  baudSel : Byte
  lineFmt : Byte
  maxAttempts : Byte
  waitLo : Byte
  waitHi : Byte
  deriving DecidableEq, Repr, Inhabited

/-- What `STATUS` shows (10_state.md R35, R41). -/
structure LinkStatus where
  link : Link
  overrun : Bool
  lineErr : Bool
  fcause : FCause
  deriving DecidableEq, Repr, Inhabited

/-- The transmit side (10_state.md R43, R45, R47). Queues are oldest first. -/
structure TxPath where
  txq : List Byte
  txStage : List Byte
  txSh : TxShifter
  deriving DecidableEq, Repr, Inhabited

/-- The receive side (10_state.md R44, R46, R48; 41_line_engine.md R168). -/
structure RxPath where
  rxq : List Byte
  rxStage : List Byte
  rxSh : RxShifter
  /-- The receiver's previous sample of `rxd` (log entry 5). -/
  rxPrev : Bool
  /-- The first flop of the synchroniser (log entry 5). -/
  rxSync1 : Bool
  /-- The second flop of the synchroniser, whose output is sampled (log entry 5). -/
  rxSync2 : Bool
  deriving DecidableEq, Repr, Inhabited

/-- The result registers (10_state.md R49). -/
structure ResultRegs where
  valid : Bool
  cmd : Command
  err : ErrCode
  val : BitVec 16
  deriving DecidableEq, Repr, Inhabited

/-- One entry of the (operation, result) sequence at the host port (10_state.md R51). -/
structure OpRecord where
  op : HostWord
  cmd : Command
  err : ErrCode
  val : BitVec 16
  deriving DecidableEq, Repr, Inhabited

/-- The histories: no hardware state, recorded by the model (10_state.md R51; log entry 18). -/
structure History where
  /-- `line_out` (10_state.md R51). -/
  lineOut : List Byte
  /-- `line_in` (10_state.md R51). -/
  lineIn : List Byte
  /-- The (operation, result) sequence (10_state.md R51). -/
  opLog : List OpRecord
  /-- `E`: the bytes whose enqueue returned true (20_memory.md R70). -/
  enqueued : List Byte
  /-- `A`: the good characters `RxLine` accepted (20_memory.md R71). -/
  accepted : List Byte
  /-- The bytes DEQ returned and RECV removed (20_memory.md R71; 40_transport_ops.md R140). -/
  taken : List Byte
  /-- The bytes overrun discarded (41_line_engine.md R171). -/
  lost : List Byte
  deriving DecidableEq, Repr, Inhabited

/-- The model's own fields: which inputs come next (log entry 2). -/
structure Environment where
  /-- The inputs still to come, the next one first. -/
  schedule : List Input
  /-- How many free inputs have been taken; the next one is `Config.freeInput inputCount`. -/
  inputCount : Nat
  deriving DecidableEq, Repr, Inhabited

/-- The state of the block (10_state.md R20), its static parameters (00_scope.md R6), the histories and the inputs. -/
structure State where
  cfg : Config
  drv : Driver
  sqr : Sequencer
  csr : Csrs
  lnk : LinkStatus
  tx : TxPath
  rx : RxPath
  res : ResultRegs
  hist : History
  env : Environment
  deriving DecidableEq, Repr, Inhabited

/-- The reset values of 10_state.md R52 for the parameters `c`. `timer` and `pendOp` are unspecified there: 0 is a DESIGN
CHOICE (log entry 4); the receiver's three sample flops are 1, the idle level, a DESIGN CHOICE (log entry 5). -/
def State.resetWith (c : Config) : State where
  cfg := c
  drv := { relayState := List.replicate c.channels false, lastChannel := 0#8 }
  sqr := { seq := .idle, timer := 0, initActive := false, initCh := 0#8, initErrs := 0#8, pendOp := 0#16, attempts := 0#8 }
  csr := { baudSel := 0x03#8, lineFmt := 0x03#8, maxAttempts := 0x01#8, waitLo := 0x00#8, waitHi := 0x00#8 }
  lnk := { link := .closed, overrun := false, lineErr := false, fcause := .none }
  tx := { txq := [], txStage := [], txSh := .idle }
  rx := { rxq := [], rxStage := [], rxSh := .idle, rxPrev := true, rxSync1 := true, rxSync2 := true }
  res := { valid := false, cmd := .none, err := .no, val := 0#16 }
  hist := { lineOut := [], lineIn := [], opLog := [], enqueued := [], accepted := [], taken := [], lost := [] }
  env := { schedule := [], inputCount := 0 }

/-- The machine right after reset (10_state.md R52; 70_reset_and_hazards.md R301), with the default parameters (log entry 1). -/
def State.reset : State := State.resetWith Config.default

end Sys2Proof.Machine
end

