-- ==== Sys2Proof/Machine/Operands.lean ====
section
/-!
DEFINITION. Operand forms and code numbers: Command and Error codes (spec/30_encoding.md R94, R95), the channel operand (R97), the
state byte (R98), the prediction function (spec/43_protocol_driver.md R211), the composed Command (R230), the result
record (spec/30_encoding.md R103), the answer wait (spec/10_state.md R34).
-/

namespace Sys2Proof.Machine

/-- The 4-bit number of a Command (30_encoding.md R94). -/
def commandCode : Command → BitVec 4
  | .off => 0#4
  | .on => 1#4
  | .offCheck => 2#4
  | .onCheck => 3#4
  | .negateCheck => 4#4
  | .check => 5#4
  | .none => 6#4
  | .error => 7#4

/-- The 4-bit number of an Error (30_encoding.md R95). -/
def errorCode : ErrCode → BitVec 4
  | .no => 0#4
  | .noRecv => 1#4
  | .noSend => 2#4
  | .wrngCrc => 3#4
  | .wrngRel => 4#4
  | .wrngCom => 5#4
  | .wrngSta => 6#4
  | .invChan => 7#4
  | .empty => 8#4
  | .badState => 9#4
  | .illOp => 10#4
  | .fatal => 11#4

/-- The result of an operation, `(res_cmd, res_err, res_val)` (30_encoding.md R103; 00_scope.md R11). -/
structure OpResult where
  cmd : Command
  err : ErrCode
  val : BitVec 16
  deriving DecidableEq, Repr, Inhabited

/-- `return (NONE, NO, v)` (00_scope.md R10). -/
def OpResult.value (v : BitVec 16) : OpResult := { cmd := .none, err := .no, val := v }

/-- The result of `raise E`: `(ERROR, E, 0)` (00_scope.md R10; 30_encoding.md R103). -/
def OpResult.error (e : ErrCode) : OpResult := { cmd := .error, err := e, val := 0#16 }

/-- `return (c, NO)` (00_scope.md R10). -/
def OpResult.command (c : Command) : OpResult := { cmd := c, err := .no, val := 0#16 }

/-- `HOST_RES`, 24 bits: `res_cmd`, `res_err`, `res_val` (30_encoding.md R103). -/
def OpResult.toHostRes (r : OpResult) : BitVec 24 := commandCode r.cmd ++ errorCode r.err ++ r.val

/-- A channel operand is valid when `1 <= d <= N` (30_encoding.md R97). -/
def State.validChannel (s : State) (ch : Byte) : Bool := decide (1 ≤ ch.toNat ∧ ch.toNat ≤ s.cfg.channels)

/-- A boolean as the value 0 or 1 (00_scope.md R9). -/
def boolValue (b : Bool) : BitVec 16 := BitVec.ofNat 16 b.toNat

/-- `ON` or `OFF` (43_protocol_driver.md R227). -/
def reportedCommand (rep : Bool) : Command := if rep then .on else .off

/-- `Predict(cmd, old)` (43_protocol_driver.md R211); SEND calls it for the codes 0..5 only. -/
def predict (cmd : BitVec 4) (old : Bool) : Bool :=
  match cmd.toNat with
  | 0 => false
  | 1 => true
  | 2 => false
  | 3 => true
  | 4 => !old
  | _ => old

/-- A check-type command: any wire command but OFF and ON (00_scope.md R12). -/
def isCheckType (cmd : BitVec 4) : Bool := decide (2 ≤ cmd.toNat ∧ cmd.toNat ≤ 5)

/-- COMPOSE's table (43_protocol_driver.md R230). -/
def composed (relayWanted feedbackWanted : Bool) : Command :=
  match feedbackWanted, relayWanted with
  | false, false => .off
  | false, true => .on
  | true, false => .offCheck
  | true, true => .onCheck

/-- `ANSWER_WAIT_MS = 256 * WAIT_HI + WAIT_LO` (10_state.md R34). -/
def State.answerWaitMs (s : State) : Nat := 256 * s.csr.waitHi.toNat + s.csr.waitLo.toNat

/-- `CYC_PER_MS = CLK_HZ / 1000` (00_scope.md R6). -/
def cycPerMs (c : Config) : Nat := c.clkHz / 1000

/-- `CYC_OPEN_RETRY = 2 * CLK_HZ` (00_scope.md R6). -/
def cycOpenRetry (c : Config) : Nat := 2 * c.clkHz

/-- The longest wait there is, in clock cycles: the open retry delay or the longest answer wait (10_state.md R26). -/
def longestWait (c : Config) : Nat := max (cycOpenRetry c) (65535 * cycPerMs c)

/-- `TIMER_W`, the width of `timer` in bits (10_state.md R26). Every value a wait loads fits, so `timer` never wraps. -/
def timerWidth (c : Config) : Nat := Nat.clog 2 (longestWait c + 1)

end Sys2Proof.Machine
end

