-- ==== Sys2Proof/Machine/Flags.lean ====
section
/-!
DEFINITION. The flags and the control and status registers as software sees them: `STATUS` (spec/10_state.md R35), the CSR map
(R30 to R39), the legal values of the writable ones (R31, R32), and which operation is permitted in which link state
(spec/60_exceptions.md R273). The block has no arithmetic flags (spec/10_state.md R40).
-/

namespace Sys2Proof.Machine

/-- `STATUS.LINK` (10_state.md R35, R41). -/
def linkCode : Link → BitVec 2
  | .closed => 0#2
  | .opening => 1#2
  | .opened => 2#2
  | .fatal => 3#2

/-- `STATUS.FCAUSE` (10_state.md R35). -/
def fcauseCode : FCause → BitVec 3
  | .none => 0#3
  | .openFail => 1#3
  | .badBool => 2#3

/-- `STATUS`: bit 7 reads 0, `FCAUSE` 6:4, `LINE_ERR` 3, `OVERRUN` 2, `LINK` 1:0 (10_state.md R35). -/
def LinkStatus.statusByte (l : LinkStatus) : Byte :=
  0#1 ++ fcauseCode l.fcause ++ BitVec.ofBool l.lineErr ++ BitVec.ofBool l.overrun ++ linkCode l.link

/-- The value a CSR index reads, none where it is reserved (10_state.md R30, R36 to R39). -/
def State.csrRead (s : State) (a : BitVec 4) : Option Byte :=
  match a.toNat with
  | 0 => some s.csr.baudSel
  | 1 => some s.csr.lineFmt
  | 2 => some s.csr.maxAttempts
  | 3 => some s.csr.waitLo
  | 4 => some s.csr.waitHi
  | 5 => some s.lnk.statusByte
  | 6 => some s.drv.lastChannel
  | 7 => some (BitVec.ofNat 8 s.cfg.channels)
  | 8 => some s.sqr.initErrs
  | _ => none

/-- The writable control register of an index set to a value; no other index writes (10_state.md R30). -/
def Csrs.write (c : Csrs) (a : BitVec 4) (v : Byte) : Csrs :=
  match a.toNat with
  | 0 => { c with baudSel := v }
  | 1 => { c with lineFmt := v }
  | 2 => { c with maxAttempts := v }
  | 3 => { c with waitLo := v }
  | 4 => { c with waitHi := v }
  | _ => c

/-- An index CFGWR may name: 0..4; 5..8 are read only and 9..15 reserved (40_transport_ops.md R138 L1). -/
def csrWritable (a : BitVec 4) : Bool := decide (a.toNat ≤ 4)

/-- The line parameters, frozen once opening starts (40_transport_ops.md R138 L2). -/
def csrFrozenUnlessClosed (a : BitVec 4) : Bool := decide (a.toNat ≤ 2)

/-- `BAUD_SEL[7:3]` are reserved (10_state.md R31). -/
def baudSelLegal (v : Byte) : Bool := v.extractLsb' 3 5 == 0#5

/-- `LINE_FMT`: bit 7 reserved, `FLOW` hardwired 0, `PAR = 3` reserved (10_state.md R32). -/
def lineFmtLegal (v : Byte) : Bool :=
  !v.getLsbD 7 && v.extractLsb' 5 2 == 0#2 && v.extractLsb' 2 2 != 3#2

/-- The field test of CFGWR (40_transport_ops.md R138 L3, L4). -/
def csrValueLegal (a : BitVec 4) (v : Byte) : Bool :=
  match a.toNat with
  | 0 => baudSelLegal v
  | 1 => lineFmtLegal v
  | _ => true

/-- The data operations and the driver's line operations need `link = OPEN` (60_exceptions.md R273). -/
def State.linkOpen (s : State) : Bool := s.lnk.link == .opened

/-- Every operation but RDCSR is refused in the fatal link state (60_exceptions.md R273). -/
def State.linkFatal (s : State) : Bool := s.lnk.link == .fatal

end Sys2Proof.Machine
end

