-- ==== Sys2Proof/Machine/Ops.lean ====
section
/-!
DEFINITION. The named operations over registers and queues: ending an operation, raising an error and entering the fatal state
(spec/00_scope.md R10; spec/60_exceptions.md R272, R276), the predicted relay state (spec/10_state.md R21), the queue
operations (spec/40_transport_ops.md R131 to R134; spec/20_memory.md R61), waits (spec/10_state.md R26) and reset
(spec/70_reset_and_hazards.md R300).
-/

namespace Sys2Proof.Machine

/-- The bounds of the four queues (20_memory.md R77). The block has no other memory (R60). -/
abbrev Memory.wf (s : State) : Prop :=
  s.tx.txq.length ≤ s.cfg.cap ∧ s.rx.rxq.length ≤ s.cfg.cap ∧ s.tx.txStage.length ≤ s.cfg.txsDepth ∧
    s.rx.rxStage.length ≤ s.cfg.rxsDepth

/-! ## Ending an operation -/

/-- The operation ends: `seq` is IDLE and the result registers hold its result (10_state.md R25, R49). `pend_op` keeps the word
of the ended operation: DESIGN CHOICE, log entry 4, because 93_implementation_defined.md U24 leaves it any value from here on. -/
def State.finish (r : OpResult) (s : State) : State :=
  { s with
    sqr := { s.sqr with seq := .idle }
    res := { valid := true, cmd := r.cmd, err := r.err, val := r.val } }

/-- `raise E`: the one way an operation ends with a recoverable error (00_scope.md R10; 60_exceptions.md R276). It saves
nothing and transfers control nowhere; what was written before stays written. -/
def State.raise (e : ErrCode) (s : State) : State := s.finish (OpResult.error e)

/-- `fatal(cause)` (00_scope.md R10; 60_exceptions.md R272). `pend_op` and `timer` keep their values: DESIGN CHOICE, log entry 4. -/
def State.enterFatal (cause : FCause) (s : State) : State :=
  { s with
    lnk := { s.lnk with link := .fatal, fcause := cause }
    sqr := { s.sqr with seq := .idle, initActive := false }
    res := { valid := true, cmd := .error, err := .fatal, val := 0#16 } }

/-- Acceptance: the word is latched into `pend_op` and `res_valid` is cleared (10_state.md R25). `pend_op` holds this word until
the next acceptance, also after its operation has ended, where U24 of 93_implementation_defined.md leaves it any value: DESIGN
CHOICE, log entry 4. -/
def State.accept (w : HostWord) (s : State) : State :=
  { s with
    sqr := { s.sqr with pendOp := w }
    res := { s.res with valid := false } }

/-- `res_valid` cleared, for a relay frame handled alone, which no command word stands for (log entry 7). -/
def State.clearValid (s : State) : State := { s with res := { s.res with valid := false } }

/-- `pc <- q; wait(n)` for an `n` that is not 0; the callers end a wait of length 0 at once (00_scope.md R10; 10_state.md R26). -/
def State.startWait (q : Seq) (n : Nat) (s : State) : State :=
  { s with sqr := { s.sqr with seq := q, timer := n } }

/-! ## Registers -/

/-- Read of `relayState[ch]`; there is no register outside `1..N`, and no operation reads one in a state a run reaches
(10_state.md R21; log entry 14). -/
def State.relay (s : State) (ch : Byte) : Bool :=
  if ch = 0#8 then false else s.drv.relayState.getD (ch.toNat - 1) false

/-- `relayState[ch] <- v`; an index outside `1..N` writes nothing (10_state.md R21; log entry 14). -/
def State.setRelay (ch : Byte) (v : Bool) (s : State) : State :=
  { s with drv := { s.drv with relayState := if ch = 0#8 then s.drv.relayState else s.drv.relayState.set (ch.toNat - 1) v } }

/-- `lastChannel <- ch` (10_state.md R23). -/
def State.setLastChannel (ch : Byte) (s : State) : State := { s with drv := { s.drv with lastChannel := ch } }

/-- `csr[a] <- v` (40_transport_ops.md R138 L5). -/
def State.writeCsr (a : BitVec 4) (v : Byte) (s : State) : State := { s with csr := s.csr.write a v }

/-! ## Queues -/

/-- The byte enters `txq` at the tail; the caller has tested for room (10_state.md R43). -/
def State.pushTx (b : Byte) (s : State) : State :=
  { s with
    tx := { s.tx with txq := s.tx.txq ++ [b] }
    hist := { s.hist with enqueued := s.hist.enqueued ++ [b] } }

/-- `txq` is full exactly when `len(txq) = CAP` (10_state.md R43). -/
def State.txqFull (s : State) : Bool := decide (s.tx.txq.length = s.cfg.cap)

/-- The enqueue: rejected, and nothing changed, when `txq` is full (40_transport_ops.md R131 L2, L3). -/
def State.enqueue (b : Byte) (s : State) : State × Bool :=
  if s.txqFull then (s, false) else (s.pushTx b, true)

/-- Enqueues in order; the answer says that none was rejected (43_protocol_driver.md R220 L7, L8). -/
def State.enqueueAll : List Byte → State → State × Bool
  | [], s => (s, true)
  | b :: bs, s =>
    let r := s.enqueue b
    let q := State.enqueueAll bs r.1
    (q.1, r.2 && q.2)

/-- How many bytes a flush moves: `min(len(txq), TXS_DEPTH - len(tx_stage))` (40_transport_ops.md R132 L2). -/
def State.flushCount (s : State) : Nat := min s.tx.txq.length (s.cfg.txsDepth - s.tx.txStage.length)

/-- The `k` oldest bytes of `txq` move to the tail of `tx_stage` (40_transport_ops.md R132 L3). -/
def State.flushTx (s : State) : State :=
  { s with
    tx := { s.tx with
      txq := s.tx.txq.drop s.flushCount
      txStage := s.tx.txStage ++ s.tx.txq.take s.flushCount } }

/-- How many bytes a poll moves: `min(len(rx_stage), CAP - len(rxq))` (40_transport_ops.md R133 L2). -/
def State.pollCount (s : State) : Nat := min s.rx.rxStage.length (s.cfg.cap - s.rx.rxq.length)

/-- The `k` oldest staged bytes move to the tail of `rxq` (40_transport_ops.md R133 L3). -/
def State.pollRx (s : State) : State :=
  { s with
    rx := { s.rx with
      rxq := s.rx.rxq ++ s.rx.rxStage.take s.pollCount
      rxStage := s.rx.rxStage.drop s.pollCount } }

/-- The `n` oldest bytes of `rxq` are removed (40_transport_ops.md R134 L3; 43_protocol_driver.md R222 M4, M5). -/
def State.takeRx (n : Nat) (s : State) : State :=
  { s with
    rx := { s.rx with rxq := s.rx.rxq.drop n }
    hist := { s.hist with taken := s.hist.taken ++ s.rx.rxq.take n } }

/-- The window: the 4 newest bytes of `rxq`, oldest first (43_protocol_driver.md R222 M4, M5; R224). -/
def windowOf (q : List Byte) : Frame :=
  { f0 := q.getD (q.length - 4) 0#8
    f1 := q.getD (q.length - 3) 0#8
    f2 := q.getD (q.length - 2) 0#8
    f3 := q.getD (q.length - 1) 0#8 }

/-! ## Reset -/

/-- `rst_n` low: every item of state has its reset value (70_reset_and_hazards.md R300). The parameters stay, and the inputs
still to come are no state of the block (log entry 20). -/
def State.hardReset (s : State) : State := { State.resetWith s.cfg with env := s.env }

end Sys2Proof.Machine
end

