-- ==== Sys2Proof/Machine/Protocol.lean ====
section
/-!
DEFINITION. The protocol driver's shared pseudocode: sending a frame (spec/43_protocol_driver.md R220 L6 to L10), SEND up to its wait
(R220 L2 to L13), RECV from its poll on (R222 M2 to M11), INIT's loop (R228), the end of a wait (R220 L14, L15;
spec/40_transport_ops.md R130 L5 to L9).
-/

namespace Sys2Proof.Machine

/-- The frame's bytes are enqueued one by one and a flush follows in every case; the answer says that no byte was rejected
and that the flush moved at least 4 bytes (43_protocol_driver.md R220 L7 to L10). -/
def transmitFrame (f : Frame) (s : State) : State × Bool :=
  let p := s.enqueueAll f.bytes
  (p.1.flushTx, p.2 && decide (4 ≤ p.1.flushCount))

/-- The state after SEND's lines L4 and L5: the optimistic update and `lastChannel` (43_protocol_driver.md R220, R211). -/
def predicted (cmd : BitVec 4) (ch : Byte) (s : State) : State :=
  (s.setRelay ch (predict cmd (s.relay ch))).setLastChannel ch

/-- SEND's lines L4 to L9: the update, then the frame (43_protocol_driver.md R220). -/
def sendOut (cmd : BitVec 4) (ch : Byte) (s : State) : State × Bool :=
  transmitFrame (mkFrame ch (cmd.setWidth 8)) (predicted cmd ch s)

/-- RECV's checks on the window: marker and checksum, channel, state byte, prediction (43_protocol_driver.md R222 M6 to M11). -/
def evalWindow (f : Frame) (s : State) : State × OpResult :=
  if !f.valid then (s, OpResult.error .wrngCrc)
  else if s.drv.lastChannel = 0#8 ∨ f.f1 ≠ s.drv.lastChannel then (s, OpResult.error .wrngRel)
  else if 1 < f.f2.toNat then (s, OpResult.error .wrngCom)
  else if (f.f2 == 1#8) ≠ s.relay f.f1 then (s.setRelay f.f1 (f.f2 == 1#8), OpResult.error .wrngSta)
  else (s, OpResult.command (reportedCommand (f.f2 == 1#8)))

/-- RECV from line M2 on: the poll, the test for 4 bytes, the window taken out of `rxq`, the checks
(43_protocol_driver.md R222 M2 to M11). -/
def recvFrom (s : State) : State × OpResult :=
  let t := s.pollRx
  if t.rx.rxq.length < 4 then (t, OpResult.error .noRecv)
  else evalWindow (windowOf t.rx.rxq) (t.takeRx t.rx.rxq.length)

/-- The length of the answer wait in clock cycles (43_protocol_driver.md R220 L13, R221). -/
def State.answerWaitCycles (s : State) : Nat := s.answerWaitMs * cycPerMs s.cfg

/-- SEND from line L2 on, up to its result or (no result yet) its wait (43_protocol_driver.md R220 L2 to L13). A wait of 0 cycles,
which no legal parameter gives, ends at once (10_state.md R26). -/
def sendFrom (cmd : BitVec 4) (ch : Byte) (s : State) : State × Option OpResult :=
  if !s.validChannel ch then (s, some (OpResult.error .invChan))
  else if 6 ≤ cmd.toNat then (s, some (OpResult.error .wrngCom))
  else
    let p := sendOut cmd ch s
    if !p.2 then (p.1, some (OpResult.error .noSend))
    else if !isCheckType cmd then (p.1, some (OpResult.value 0#16))
    else if s.answerWaitMs = 0 then (p.1, some (OpResult.error .noRecv))
    else if s.answerWaitCycles = 0 then
      let q := recvFrom p.1
      (q.1, some q.2)
    else (p.1.startWait .sendWait s.answerWaitCycles, none)

/-! ## INIT's loop -/

/-- Line I2, with the channel before the first (43_protocol_driver.md R228). -/
def State.initBegin (s : State) : State :=
  { s with sqr := { s.sqr with initActive := true, initCh := 0#8, initErrs := 0#8 } }

/-- The next channel of line I3. -/
def State.initNext (s : State) : State := { s with sqr := { s.sqr with initCh := s.sqr.initCh + 1#8 } }

/-- Line I5: an outcome other than NO is counted. -/
def State.countErr (r : OpResult) (s : State) : State :=
  { s with sqr := { s.sqr with initErrs := if r.err = .no then s.sqr.initErrs else s.sqr.initErrs + 1#8 } }

/-- Line I6. -/
def State.initEnd (s : State) : State :=
  State.finish (OpResult.value (s.sqr.initErrs.setWidth 16)) { s with sqr := { s.sqr with initActive := false } }

/-- INIT's loop over the `n` channels after `init_ch`: each a SEND of CHECK from line L2 on; it stops where one enters its
wait and ends INIT after the last channel (43_protocol_driver.md R228 I3 to I6; 10_state.md R28). -/
def initLoop : Nat → State → State
  | 0, s => s.initEnd
  | n + 1, s =>
    match sendFrom (commandCode .check) s.initNext.sqr.initCh s.initNext with
    | (t, none) => t
    | (t, some r) => initLoop n (t.countErr r)

/-! ## The sequencer -/

/-- A SEND's wait is over and RECV begins. DESIGN CHOICE (log entry 4): 10_state.md R26 leaves `timer` unspecified outside a waiting
state; it is 0 after the end of a wait, timed or untimed, and keeps that value until the next wait. -/
def State.waitOver (s : State) : State := { s with sqr := { s.sqr with seq := .idle, timer := 0 } }

/-- The end of the answer wait: RECV from line M2 on, whose result is SEND's, or is counted by INIT, which goes on with the
next channel (43_protocol_driver.md R220 L14, L15; R228). -/
def answerWaitEnds (s : State) : State :=
  let p := recvFrom s.waitOver
  if p.1.sqr.initActive then initLoop (p.1.cfg.channels - p.1.sqr.initCh.toNat) (p.1.countErr p.2)
  else p.1.finish p.2

/-- The next open attempt begins (40_transport_ops.md R130 L5). DESIGN CHOICE (log entry 4): `timer`, unspecified outside a waiting
state (10_state.md R26), is 0 after the delay, timed or untimed, and keeps that value until the next wait. -/
def State.openAttempt (s : State) : State :=
  { s with sqr := { s.sqr with attempts := s.sqr.attempts + 1#8, seq := .openTry, timer := 0 } }

/-- One open attempt samples `dev_ready` (40_transport_ops.md R130 L6 to L9). A delay of 0 cycles, which no legal parameter gives,
ends at once (10_state.md R26). -/
def openSample (devReady : Bool) (s : State) : State :=
  if devReady then
    State.finish (OpResult.value (s.sqr.attempts.setWidth 16)) { s with lnk := { s.lnk with link := .opened } }
  else if s.sqr.attempts = s.csr.maxAttempts then s.enterFatal .openFail
  else if cycOpenRetry s.cfg = 0 then s.openAttempt
  else s.startWait .openDelay (cycOpenRetry s.cfg)

/-- One clock cycle of `timer` (10_state.md R26). -/
def State.tick (s : State) : State := { s with sqr := { s.sqr with timer := s.sqr.timer - 1 } }

/-- One clock cycle of the sequencer: an open attempt samples, a wait counts down and ends in the cycle in which `timer`
reaches 0 (10_state.md R24, R26; log entry 22). -/
def seqClock (devReady : Bool) (s : State) : State :=
  match s.sqr.seq with
  | .idle => s
  | .openTry => openSample devReady s
  | .openDelay => if s.sqr.timer ≤ 1 then s.openAttempt else s.tick
  | .sendWait => if s.sqr.timer ≤ 1 then answerWaitEnds s else s.tick

/-- The end of the wait in progress, in a model without time (10_state.md R26; 70_reset_and_hazards.md R318). What `timer` holds
afterwards: log entry 4. -/
def waitEnds (s : State) : State :=
  match s.sqr.seq with
  | .idle => s
  | .openTry => s
  | .openDelay => s.openAttempt
  | .sendWait => answerWaitEnds s

end Sys2Proof.Machine
end

