-- ==== Sys2Proof/Machine/Driver.lean ====
section
/-!
DEFINITION. The meanings of the protocol driver's operations: SEND and its sub-forms (spec/43_protocol_driver.md R212 to R220), RECV
(R222), INIT (R228), RDSTATE (R229), COMPOSE (R230), CMD2BOOL (R231).
-/

namespace Sys2Proof.Machine

/-- SEND as a host operation: the link test L1, then the pseudocode from L2 on (43_protocol_driver.md R220). -/
def sendOp (cmd : BitVec 4) (ch : Byte) (s : State) : State :=
  if !s.linkOpen then s.raise .badState
  else match sendFrom cmd ch s with
    | (t, some r) => t.finish r
    | (t, none) => t

/-- SEND, the generic row (43_protocol_driver.md R220). -/
def execSend (cmd : BitVec 4) (ch : Byte) (s : State) : Host.Outcome State Fault Refusal := .next (sendOp cmd ch s)

/-- SEND.OFF (43_protocol_driver.md R212). -/
def execSendOff (ch : Byte) (s : State) : Host.Outcome State Fault Refusal := .next (sendOp (commandCode .off) ch s)

/-- SEND.ON (43_protocol_driver.md R213). -/
def execSendOn (ch : Byte) (s : State) : Host.Outcome State Fault Refusal := .next (sendOp (commandCode .on) ch s)

/-- SEND.OFF_CHECK (43_protocol_driver.md R214). -/
def execSendOffCheck (ch : Byte) (s : State) : Host.Outcome State Fault Refusal :=
  .next (sendOp (commandCode .offCheck) ch s)

/-- SEND.ON_CHECK (43_protocol_driver.md R215). -/
def execSendOnCheck (ch : Byte) (s : State) : Host.Outcome State Fault Refusal :=
  .next (sendOp (commandCode .onCheck) ch s)

/-- SEND.NEGATE_CHECK (43_protocol_driver.md R216). -/
def execSendNegateCheck (ch : Byte) (s : State) : Host.Outcome State Fault Refusal :=
  .next (sendOp (commandCode .negateCheck) ch s)

/-- SEND.CHECK (43_protocol_driver.md R217). -/
def execSendCheck (ch : Byte) (s : State) : Host.Outcome State Fault Refusal := .next (sendOp (commandCode .check) ch s)

/-- SEND.NONE (43_protocol_driver.md R218). -/
def execSendNone (ch : Byte) (s : State) : Host.Outcome State Fault Refusal := .next (sendOp (commandCode .none) ch s)

/-- SEND.ERROR (43_protocol_driver.md R219). -/
def execSendError (ch : Byte) (s : State) : Host.Outcome State Fault Refusal := .next (sendOp (commandCode .error) ch s)

/-- SEND.RESERVED, Command codes 8..15 (43_protocol_driver.md R219). -/
def execSendReserved (code : BitVec 4) (ch : Byte) (s : State) : Host.Outcome State Fault Refusal :=
  .next (sendOp code ch s)

/-- RECV as a host operation (43_protocol_driver.md R222). -/
def execRecv (s : State) : Host.Outcome State Fault Refusal :=
  if !s.linkOpen then .next (s.raise .badState)
  else .next ((recvFrom s).1.finish (recvFrom s).2)

/-- INIT up to the first wait of its loop, or to its end (43_protocol_driver.md R228). -/
def execInit (s : State) : Host.Outcome State Fault Refusal :=
  if !s.linkOpen then .next (s.raise .badState)
  else .next (initLoop s.cfg.channels s.initBegin)

/-- RDSTATE (43_protocol_driver.md R229; 60_exceptions.md R273). -/
def execRdstate (ch : Byte) (s : State) : Host.Outcome State Fault Refusal :=
  if s.linkFatal then .next (s.raise .badState)
  else if !s.validChannel ch then .next (s.raise .invChan)
  else .next (s.finish (OpResult.value (boolValue (s.relay ch))))

/-- COMPOSE (43_protocol_driver.md R230; 60_exceptions.md R273). -/
def execCompose (relayWanted feedbackWanted : Bool) (s : State) : Host.Outcome State Fault Refusal :=
  if s.linkFatal then .next (s.raise .badState)
  else .next (s.finish
    { cmd := composed relayWanted feedbackWanted
      err := .no
      val := (commandCode (composed relayWanted feedbackWanted)).setWidth 16 })

/-- CMD2BOOL (43_protocol_driver.md R231; 60_exceptions.md R272, R273). -/
def execCmd2bool (cmd : BitVec 4) (s : State) : Host.Outcome State Fault Refusal :=
  if s.linkFatal then .next (s.raise .badState)
  else if cmd = commandCode .on then .next (s.finish (OpResult.value 1#16))
  else if cmd = commandCode .off then .next (s.finish (OpResult.value 0#16))
  else .next (s.enterFatal .badBool)

end Sys2Proof.Machine
end

