-- ==== Sys2Proof/Machine/Frames.lean ====
section
/-!
DEFINITION. The meanings of the relay frames (log entry 7). A command frame FRAME.x is handed to the line side: lines L7 to L10 of the
SEND that produces it (spec/43_protocol_driver.md R220, R212 to R217). A feedback frame FB_x is evaluated as RECV's window: lines
M6 to M11 (R222, R232, R233). Both need the link OPEN, as the SEND and the RECV they are part of do (spec/60_exceptions.md R273).
-/

namespace Sys2Proof.Machine

/-- A command frame is sent: its 4 bytes enqueued and flushed, NOSEND when they are not all handed over
(43_protocol_driver.md R220 L7 to L10). -/
def commandFrameOp (f : Frame) (s : State) : State :=
  if !s.linkOpen then s.raise .badState
  else if (transmitFrame f s).2 then (transmitFrame f s).1.finish (OpResult.value 0#16)
  else (transmitFrame f s).1.raise .noSend

/-- A frame is evaluated as RECV's window (43_protocol_driver.md R222 M6 to M11). -/
def feedbackFrameOp (f : Frame) (s : State) : State :=
  if !s.linkOpen then s.raise .badState
  else (evalWindow f s).1.finish (evalWindow f s).2

/-- FRAME.OFF (43_protocol_driver.md R212). -/
def execFrameOff (ch ck : Byte) (s : State) : Host.Outcome State Fault Refusal :=
  .next (commandFrameOp { f0 := marker, f1 := ch, f2 := 0#8, f3 := ck } s)

/-- FRAME.ON (43_protocol_driver.md R213). -/
def execFrameOn (ch ck : Byte) (s : State) : Host.Outcome State Fault Refusal :=
  .next (commandFrameOp { f0 := marker, f1 := ch, f2 := 1#8, f3 := ck } s)

/-- FRAME.OFF_CHECK (43_protocol_driver.md R214). -/
def execFrameOffCheck (ch ck : Byte) (s : State) : Host.Outcome State Fault Refusal :=
  .next (commandFrameOp { f0 := marker, f1 := ch, f2 := 2#8, f3 := ck } s)

/-- FRAME.ON_CHECK (43_protocol_driver.md R215). -/
def execFrameOnCheck (ch ck : Byte) (s : State) : Host.Outcome State Fault Refusal :=
  .next (commandFrameOp { f0 := marker, f1 := ch, f2 := 3#8, f3 := ck } s)

/-- FRAME.NEGATE_CHECK (43_protocol_driver.md R216). -/
def execFrameNegateCheck (ch ck : Byte) (s : State) : Host.Outcome State Fault Refusal :=
  .next (commandFrameOp { f0 := marker, f1 := ch, f2 := 4#8, f3 := ck } s)

/-- FRAME.CHECK (43_protocol_driver.md R217). -/
def execFrameCheck (ch ck : Byte) (s : State) : Host.Outcome State Fault Refusal :=
  .next (commandFrameOp { f0 := marker, f1 := ch, f2 := 5#8, f3 := ck } s)

/-- FB_OFF (43_protocol_driver.md R232). -/
def execFbOff (ch ck : Byte) (s : State) : Host.Outcome State Fault Refusal :=
  .next (feedbackFrameOp { f0 := marker, f1 := ch, f2 := 0#8, f3 := ck } s)

/-- FB_ON (43_protocol_driver.md R233). -/
def execFbOn (ch ck : Byte) (s : State) : Host.Outcome State Fault Refusal :=
  .next (feedbackFrameOp { f0 := marker, f1 := ch, f2 := 1#8, f3 := ck } s)

end Sys2Proof.Machine
end

