-- ==== Sys2Proof/Machine/Transport.lean ====
section
/-!
DEFINITION. The meanings of the Transport operations and of the reserved operation code (spec/40_transport_ops.md R130 to R139,
spec/30_encoding.md R104). Every operation first tests the link (spec/60_exceptions.md R273).
-/

namespace Sys2Proof.Machine

/-- RESERVED0 (30_encoding.md R104; 60_exceptions.md R273). -/
def execReserved0 (s : State) : Host.Outcome State Fault Refusal :=
  if s.linkFatal then .next (s.raise .badState) else .next (s.raise .illOp)

/-- CFGWR (40_transport_ops.md R138). -/
def execCfgwr (a : BitVec 4) (v : Byte) (s : State) : Host.Outcome State Fault Refusal :=
  if s.linkFatal then .next (s.raise .badState)
  else if !csrWritable a then .next (s.raise .illOp)
  else if csrFrozenUnlessClosed a && s.lnk.link != .closed then .next (s.raise .badState)
  else if !csrValueLegal a v then .next (s.raise .illOp)
  else .next ((s.writeCsr a v).finish (OpResult.value 0#16))

/-- OPEN up to its first attempt; the attempt samples `dev_ready` in the sequencer's next step (40_transport_ops.md R130 L1 to
L5; 10_state.md R28; log entry 6). -/
def execOpenLink (s : State) : Host.Outcome State Fault Refusal :=
  if s.lnk.link ≠ .closed then .next (s.raise .badState)
  else if s.csr.maxAttempts = 0#8 then .next (s.enterFatal .openFail)
  else .next
    { s with
      lnk := { s.lnk with link := .opening }
      sqr := { s.sqr with attempts := 1#8, seq := .openTry } }

/-- ENQ (40_transport_ops.md R131). -/
def execEnq (b : Byte) (s : State) : Host.Outcome State Fault Refusal :=
  if !s.linkOpen then .next (s.raise .badState)
  else .next ((s.enqueue b).1.finish (OpResult.value (boolValue (s.enqueue b).2)))

/-- FLUSH (40_transport_ops.md R132). -/
def execFlush (s : State) : Host.Outcome State Fault Refusal :=
  if !s.linkOpen then .next (s.raise .badState)
  else .next (s.flushTx.finish (OpResult.value (BitVec.ofNat 16 s.flushCount)))

/-- POLL (40_transport_ops.md R133). -/
def execPoll (s : State) : Host.Outcome State Fault Refusal :=
  if !s.linkOpen then .next (s.raise .badState)
  else .next (s.pollRx.finish (OpResult.value (BitVec.ofNat 16 s.pollRx.rx.rxq.length)))

/-- DEQ (40_transport_ops.md R134). -/
def execDeq (s : State) : Host.Outcome State Fault Refusal :=
  if !s.linkOpen then .next (s.raise .badState)
  else match s.rx.rxq with
    | [] => .next (s.raise .empty)
    | b :: _ => .next ((s.takeRx 1).finish (OpResult.value (b.setWidth 16)))

/-- PENDW (40_transport_ops.md R135). -/
def execPendw (s : State) : Host.Outcome State Fault Refusal :=
  if !s.linkOpen then .next (s.raise .badState)
  else .next (s.finish (OpResult.value (BitVec.ofNat 16 s.tx.txq.length)))

/-- PENDR (40_transport_ops.md R136). -/
def execPendr (s : State) : Host.Outcome State Fault Refusal :=
  if !s.linkOpen then .next (s.raise .badState)
  else .next (s.finish (OpResult.value (BitVec.ofNat 16 s.rx.rxq.length)))

/-- RDCSR, permitted in every link state (40_transport_ops.md R139). -/
def execRdcsr (a : BitVec 4) (s : State) : Host.Outcome State Fault Refusal :=
  match s.csrRead a with
  | some v => .next (s.finish (OpResult.value (v.setWidth 16)))
  | none => .next (s.raise .illOp)

end Sys2Proof.Machine
end

