-- ==== Sys2Proof/Machine/Dispatch.lean ====
section
/-!
DEFINITION. The one dispatch of instructions to their meanings, one arm per row of spec/opcode_table.json.
-/

namespace Sys2Proof.Machine

def exec (i : Instr) (s : State) : Host.Outcome State Fault Refusal :=
  match i with
  | .reserved0 => Sys2Proof.Machine.execReserved0 s
  | .cfgwr a v => Sys2Proof.Machine.execCfgwr a v s
  | .openLink => Sys2Proof.Machine.execOpenLink s
  | .enq b => Sys2Proof.Machine.execEnq b s
  | .flush => Sys2Proof.Machine.execFlush s
  | .poll => Sys2Proof.Machine.execPoll s
  | .deq => Sys2Proof.Machine.execDeq s
  | .pendw => Sys2Proof.Machine.execPendw s
  | .pendr => Sys2Proof.Machine.execPendr s
  | .init => Sys2Proof.Machine.execInit s
  | .send cmd ch => Sys2Proof.Machine.execSend cmd ch s
  | .sendOff ch => Sys2Proof.Machine.execSendOff ch s
  | .sendOn ch => Sys2Proof.Machine.execSendOn ch s
  | .sendOffCheck ch => Sys2Proof.Machine.execSendOffCheck ch s
  | .sendOnCheck ch => Sys2Proof.Machine.execSendOnCheck ch s
  | .sendNegateCheck ch => Sys2Proof.Machine.execSendNegateCheck ch s
  | .sendCheck ch => Sys2Proof.Machine.execSendCheck ch s
  | .sendNone ch => Sys2Proof.Machine.execSendNone ch s
  | .sendError ch => Sys2Proof.Machine.execSendError ch s
  | .sendReserved code ch => Sys2Proof.Machine.execSendReserved code ch s
  | .recv => Sys2Proof.Machine.execRecv s
  | .compose r fb => Sys2Proof.Machine.execCompose r fb s
  | .cmd2bool cmd => Sys2Proof.Machine.execCmd2bool cmd s
  | .rdstate ch => Sys2Proof.Machine.execRdstate ch s
  | .rdcsr a => Sys2Proof.Machine.execRdcsr a s
  | .frameOff ch ck => Sys2Proof.Machine.execFrameOff ch ck s
  | .frameOn ch ck => Sys2Proof.Machine.execFrameOn ch ck s
  | .frameOffCheck ch ck => Sys2Proof.Machine.execFrameOffCheck ch ck s
  | .frameOnCheck ch ck => Sys2Proof.Machine.execFrameOnCheck ch ck s
  | .frameNegateCheck ch ck => Sys2Proof.Machine.execFrameNegateCheck ch ck s
  | .frameCheck ch ck => Sys2Proof.Machine.execFrameCheck ch ck s
  | .fbOff ch ck => Sys2Proof.Machine.execFbOff ch ck s
  | .fbOn ch ck => Sys2Proof.Machine.execFbOn ch ck s

end Sys2Proof.Machine
end

