-- ==== Sys2Proof/WellFormed.lean ====
section
/-!
DEFINITION. Which instruction terms stand for a word of the encoding (spec/30_encoding.md R109, R91).
-/

namespace Sys2Proof

/-- The checksum byte of a frame is no free field: it is the checksum of the other three (30_encoding.md R92, R109). -/
abbrev checksumMatches (ch code ck : Byte) : Bool := ck == cks marker ch code

/-- A SEND.RESERVED row holds a Command code of 8..15; a frame holds its own checksum (30_encoding.md R109). Every operand
of every other row is legal as an encoding. -/
def Instr.wellFormed : Instr → Bool
  | .sendReserved code _ => decide (8 ≤ code.toNat)
  | .frameOff ch ck => checksumMatches ch 0#8 ck
  | .frameOn ch ck => checksumMatches ch 1#8 ck
  | .frameOffCheck ch ck => checksumMatches ch 2#8 ck
  | .frameOnCheck ch ck => checksumMatches ch 3#8 ck
  | .frameNegateCheck ch ck => checksumMatches ch 4#8 ck
  | .frameCheck ch ck => checksumMatches ch 5#8 ck
  | .fbOff ch ck => checksumMatches ch 0#8 ck
  | .fbOn ch ck => checksumMatches ch 1#8 ck
  | .reserved0 | .cfgwr _ _ | .openLink | .enq _ | .flush | .poll | .deq | .pendw | .pendr | .init
  | .send _ _ | .sendOff _ | .sendOn _ | .sendOffCheck _ | .sendOnCheck _ | .sendNegateCheck _ | .sendCheck _
  | .sendNone _ | .sendError _ | .recv | .compose _ _ | .cmd2bool _ | .rdstate _ | .rdcsr _ => true

end Sys2Proof
end

