-- ==== Sys2Proof/Decode.lean ====
section
/-!
DEFINITION. The decoder and the encoder (spec/30_encoding.md R91 to R93, R101, R102, R107, R109). The host word decoder is total: no
16-bit word is without a row (R104). A 32-bit number that is no frame of its direction is rejected by name.
-/

namespace Sys2Proof

/-- Why a 32-bit number selects no RELAY_FRAME row of its direction. -/
inductive DecodeError where
  /-- `f[0]` is not `0xA0` (30_encoding.md R91). -/
  | badMarker
  /-- A command frame's `f[2]` is above 5: the block never transmits one (30_encoding.md R99). -/
  | badCommandCode
  /-- A feedback frame's `f[2]` is above 1: not a state (30_encoding.md R93). -/
  | notAState
  /-- `f[3]` is not the checksum of the other bytes (30_encoding.md R109). -/
  | badChecksum
  deriving DecidableEq, Repr

/-- Field `op` of a command word (30_encoding.md R101). -/
def opField (w : HostWord) : BitVec 4 := w.extractLsb' 12 4

/-- Field `a` of a command word (30_encoding.md R101). -/
def aField (w : HostWord) : BitVec 4 := w.extractLsb' 8 4

/-- Field `d` of a command word (30_encoding.md R101). -/
def dField (w : HostWord) : Byte := w.extractLsb' 0 8

/-- The SEND sub-form row a Command code selects (30_encoding.md R109; 43_protocol_driver.md R212 to R219). -/
def sendForm (cmd : BitVec 4) (ch : Byte) : Instr :=
  match cmd.toNat with
  | 0 => .sendOff ch
  | 1 => .sendOn ch
  | 2 => .sendOffCheck ch
  | 3 => .sendOnCheck ch
  | 4 => .sendNegateCheck ch
  | 5 => .sendCheck ch
  | 6 => .sendNone ch
  | 7 => .sendError ch
  | _ => .sendReserved cmd ch

/-- The operation map (30_encoding.md R102). -/
def decodeHost (w : HostWord) : Instr :=
  match (opField w).toNat with
  | 0 => .reserved0
  | 1 => .cfgwr (aField w) (dField w)
  | 2 => .openLink
  | 3 => .enq (dField w)
  | 4 => .flush
  | 5 => .poll
  | 6 => .deq
  | 7 => .pendw
  | 8 => .pendr
  | 9 => .init
  | 10 => sendForm (aField w) (dField w)
  | 11 => .recv
  | 12 => .compose ((aField w).getLsbD 0) ((aField w).getLsbD 1)
  | 13 => .cmd2bool (aField w)
  | 14 => .rdstate (dField w)
  | _ => .rdcsr (aField w)

/-- The row of a command frame by its mask and match: marker and code (30_encoding.md R92, R99). -/
def commandFrameRow (f : Frame) : Except DecodeError Instr :=
  if f.f0 != marker then .error .badMarker
  else match f.f2.toNat with
    | 0 => .ok (.frameOff f.f1 f.f3)
    | 1 => .ok (.frameOn f.f1 f.f3)
    | 2 => .ok (.frameOffCheck f.f1 f.f3)
    | 3 => .ok (.frameOnCheck f.f1 f.f3)
    | 4 => .ok (.frameNegateCheck f.f1 f.f3)
    | 5 => .ok (.frameCheck f.f1 f.f3)
    | _ => .error .badCommandCode

/-- The row of a feedback frame by its mask and match: marker and state byte (30_encoding.md R93, R98). -/
def feedbackFrameRow (f : Frame) : Except DecodeError Instr :=
  if f.f0 != marker then .error .badMarker
  else match f.f2.toNat with
    | 0 => .ok (.fbOff f.f1 f.f3)
    | 1 => .ok (.fbOn f.f1 f.f3)
    | _ => .error .notAState

/-- The condition on a frame in addition to its row's mask: `f[3] = Cks(f[0], f[1], f[2])` (30_encoding.md R109). -/
def requireChecksum (f : Frame) : Except DecodeError Instr → Except DecodeError Instr
  | .ok i => if f.valid then .ok i else .error .badChecksum
  | .error e => .error e

/-- A command frame (30_encoding.md R92, R109). -/
def decodeCommandFrame (f : Frame) : Except DecodeError Instr := requireChecksum f (commandFrameRow f)

/-- A feedback frame (30_encoding.md R93, R109). -/
def decodeFeedbackFrame (f : Frame) : Except DecodeError Instr := requireChecksum f (feedbackFrameRow f)

/-- The decoder: the row a code word selects (30_encoding.md R109; log entry 10). -/
def decode : CodeWord → Except DecodeError Instr
  | .hostCmd w => .ok (decodeHost w)
  | .relayFrame .toRelay w => decodeCommandFrame (Frame.ofWord w)
  | .relayFrame .fromRelay w => decodeFeedbackFrame (Frame.ofWord w)

/-- A command word from its three fields (30_encoding.md R101). -/
def hostWord (op a : BitVec 4) (d : Byte) : HostWord := op ++ a ++ d

/-- Field `a` of COMPOSE: `a[0]` = relayWanted, `a[1]` = feedbackWanted, `a[3:2]` zero (30_encoding.md R102, R107). -/
def composeField (relayWanted feedbackWanted : Bool) : BitVec 4 :=
  BitVec.ofNat 4 (relayWanted.toNat + 2 * feedbackWanted.toNat)

/-- A frame's code word from its direction and its bytes `f[1]`, `f[2]`, `f[3]` (30_encoding.md R91). -/
def frameWord (d : Direction) (ch code ck : Byte) : CodeWord :=
  .relayFrame d (Frame.toWord { f0 := marker, f1 := ch, f2 := code, f3 := ck })

/-- The encoder; ignored fields are zero (30_encoding.md R102, R107, R92, R93). -/
def encode : Instr → CodeWord
  | .reserved0 => .hostCmd (hostWord 0x0#4 0#4 0#8)
  | .cfgwr a v => .hostCmd (hostWord 0x1#4 a v)
  | .openLink => .hostCmd (hostWord 0x2#4 0#4 0#8)
  | .enq b => .hostCmd (hostWord 0x3#4 0#4 b)
  | .flush => .hostCmd (hostWord 0x4#4 0#4 0#8)
  | .poll => .hostCmd (hostWord 0x5#4 0#4 0#8)
  | .deq => .hostCmd (hostWord 0x6#4 0#4 0#8)
  | .pendw => .hostCmd (hostWord 0x7#4 0#4 0#8)
  | .pendr => .hostCmd (hostWord 0x8#4 0#4 0#8)
  | .init => .hostCmd (hostWord 0x9#4 0#4 0#8)
  | .send cmd ch => .hostCmd (hostWord 0xA#4 cmd ch)
  | .sendOff ch => .hostCmd (hostWord 0xA#4 0#4 ch)
  | .sendOn ch => .hostCmd (hostWord 0xA#4 1#4 ch)
  | .sendOffCheck ch => .hostCmd (hostWord 0xA#4 2#4 ch)
  | .sendOnCheck ch => .hostCmd (hostWord 0xA#4 3#4 ch)
  | .sendNegateCheck ch => .hostCmd (hostWord 0xA#4 4#4 ch)
  | .sendCheck ch => .hostCmd (hostWord 0xA#4 5#4 ch)
  | .sendNone ch => .hostCmd (hostWord 0xA#4 6#4 ch)
  | .sendError ch => .hostCmd (hostWord 0xA#4 7#4 ch)
  | .sendReserved code ch => .hostCmd (hostWord 0xA#4 code ch)
  | .recv => .hostCmd (hostWord 0xB#4 0#4 0#8)
  | .compose r fb => .hostCmd (hostWord 0xC#4 (composeField r fb) 0#8)
  | .cmd2bool cmd => .hostCmd (hostWord 0xD#4 cmd 0#8)
  | .rdstate ch => .hostCmd (hostWord 0xE#4 0#4 ch)
  | .rdcsr a => .hostCmd (hostWord 0xF#4 a 0#8)
  | .frameOff ch ck => frameWord .toRelay ch 0#8 ck
  | .frameOn ch ck => frameWord .toRelay ch 1#8 ck
  | .frameOffCheck ch ck => frameWord .toRelay ch 2#8 ck
  | .frameOnCheck ch ck => frameWord .toRelay ch 3#8 ck
  | .frameNegateCheck ch ck => frameWord .toRelay ch 4#8 ck
  | .frameCheck ch ck => frameWord .toRelay ch 5#8 ck
  | .fbOff ch ck => frameWord .fromRelay ch 0#8 ck
  | .fbOn ch ck => frameWord .fromRelay ch 1#8 ck

/-- The instruction the decoder answers for an instruction's own word: the generic SEND row is read as the one sub-form row
its word also selects (30_encoding.md R109; log entry 8). -/
def Instr.asDecoded : Instr → Instr
  | .send cmd ch => sendForm cmd ch
  | i => i

/-- A frame's bits as the opcode table gives them, made a whole frame: the checksum is no bit of a row but its dependent field
(30_encoding.md R109), so a checksum byte of 0 is a field not given, and is computed (log entry 9). -/
def tableFrame (f : Frame) : Frame := if f.f3 = 0#8 then { f with f3 := cks f.f0 f.f1 f.f2 } else f

/-- The code word the opcode table's bits stand for: 16 bits a host command word, 32 bits a command frame (log entry 9). -/
def tableCodeWord (nbits w : Nat) : Option CodeWord :=
  if nbits = 16 then some (.hostCmd (BitVec.ofNat 16 w))
  else if nbits = 32 then some (.relayFrame .toRelay (tableFrame (Frame.ofWord (BitVec.ofNat 32 w))).toWord)
  else none

/-- The instruction the decoder reads from an instruction whose bits, numbered as the opcode table numbers them, are `w`. -/
def decodeTableWord (nbits w : Nat) : Option Instr :=
  match tableCodeWord nbits w with
  | some c => (decode c).toOption
  | none => none

end Sys2Proof
end

