-- ==== Sys2Proof/Machine/Line.lean ====
section
/-!
DEFINITION. The line engine: the character on the line (spec/30_encoding.md R105, R106), the baud-rate generator
(spec/41_line_engine.md R173), `TxLine` (R163 to R166), `RxLine` (R167 to R171), at the byte level and at the bit level.
-/

namespace Sys2Proof.Machine

/-! ## Line format and baud rate -/

/-- Bits per second of a `BAUD_SEL` value (10_state.md R31). -/
def baudRate (baudSel : Byte) : Nat :=
  match (baudSel.extractLsb' 0 3).toNat with
  | 0 => 1200
  | 1 => 2400
  | 2 => 4800
  | 3 => 9600
  | 4 => 19200
  | 5 => 38400
  | 6 => 57600
  | _ => 115200

/-- `DIV(b) = (CLK_HZ + b/2) div b` (00_scope.md R6; 41_line_engine.md R173). -/
def divisor (clkHz rate : Nat) : Nat := (clkHz + rate / 2) / rate

/-- `DIV`, the clock cycles of one line bit (41_line_engine.md R173). -/
def State.bitCycles (s : State) : Nat := divisor s.cfg.clkHz (baudRate s.csr.baudSel)

/-- The number of data bits, `5 + DBITS` (10_state.md R32). -/
def dataBits (fmt : Byte) : Nat := 5 + (fmt.extractLsb' 0 2).toNat

/-- `PAR` (10_state.md R32). -/
inductive Parity where
  | none | odd | even
  deriving DecidableEq, Repr, Inhabited

/-- The parity of a `LINE_FMT` value. `PAR = 3` cannot be written (10_state.md R32), so it never stands in the register; it is
read as even (log entry 19). -/
def parityOf (fmt : Byte) : Parity :=
  match (fmt.extractLsb' 2 2).toNat with
  | 0 => .none
  | 1 => .odd
  | _ => .even

/-- The number of stop bits, `1 + STOP2` (10_state.md R32). -/
def stopBits (fmt : Byte) : Nat := 1 + (fmt.getLsbD 4).toNat

/-- The xor of the data bits (30_encoding.md R106). -/
def xorBits (data : List Bool) : Bool := data.foldl Bool.xor false

/-- The parity bits of a character: none, or one (30_encoding.md R105, R106). -/
def parityBits (fmt : Byte) (data : List Bool) : List Bool :=
  match parityOf fmt with
  | .none => []
  | .odd => [!xorBits data]
  | .even => [xorBits data]

/-- The data bits of a byte that are sent, least significant first (30_encoding.md R105; 20_memory.md R63). -/
def dataBitsOf (fmt b : Byte) : List Bool := (List.range (dataBits fmt)).map b.getLsbD

/-- The character of a byte: start bit, data bits, parity bit, stop bits (30_encoding.md R105). -/
def charBits (fmt b : Byte) : List Bool :=
  false :: (dataBitsOf fmt b ++ (parityBits fmt (dataBitsOf fmt b) ++ List.replicate (stopBits fmt) true))

/-- `L`, the number of line bits of a character (30_encoding.md R105). -/
def charLength (fmt : Byte) : Nat :=
  1 + dataBits fmt + (if parityOf fmt = .none then 0 else 1) + stopBits fmt

/-- What a receiver gets of a byte sent to it: its data bits, the upper bits 0; with fewer than 8 data bits the rest is lost on the
line (41_line_engine.md R164, R169; 70_reset_and_hazards.md R320). -/
def lineByte (fmt b : Byte) : Byte := BitVec.ofNat 8 (b.toNat % 2 ^ dataBits fmt)

/-- The byte of sampled data bits, least significant first, upper bits 0 (41_line_engine.md R169). -/
def byteOfBits (data : List Bool) : Byte := BitVec.ofNat 8 (data.foldr (fun b n => b.toNat + 2 * n) 0)

/-- The data bits among the bits sampled after the start bit. -/
def sampledData (fmt : Byte) (bits : List Bool) : List Bool := bits.take (dataBits fmt)

/-- A character is good when its parity bit is the computed one and every stop bit is 1 (41_line_engine.md R170). -/
def charGood (fmt : Byte) (bits : List Bool) : Bool :=
  bits.drop (dataBits fmt) == parityBits fmt (sampledData fmt bits) ++ List.replicate (stopBits fmt) true

/-! ## Transmit -/

/-- `TxStart`: enabled when the link is OPEN, the shifter idle and `tx_stage` not empty (41_line_engine.md R163, R164). -/
def txStartStep (s : State) : State :=
  match s.linkOpen, s.tx.txSh, s.tx.txStage with
  | true, .idle, b :: rest =>
    { s with tx := { s.tx with txStage := rest, txSh := .busy b (charBits s.csr.lineFmt b) 0 s.bitCycles } }
  | _, _, _ => s

/-- `TxDone`: enabled when the link is OPEN and the shifter busy (41_line_engine.md R163). -/
def txDoneStep (s : State) : State :=
  match s.linkOpen, s.tx.txSh with
  | true, .busy b _ _ _ =>
    { s with
      tx := { s.tx with txSh := .idle }
      hist := { s.hist with lineOut := s.hist.lineOut ++ [b] } }
  | _, _ => s

/-- The shifter goes on with the same character: bit `k` for `p` more cycles. -/
def State.shiftTo (b : Byte) (c : List Bool) (k p : Nat) (s : State) : State :=
  { s with tx := { s.tx with txSh := .busy b c k p } }

/-- One clock cycle of `TxLine`: `p` counts down; at 0 the next bit goes on `txd`; after the last stop bit's `DIV` cycles TxDone
happens, and the next TxStart in the same cycle (41_line_engine.md R164, R165). -/
def txClock (s : State) : State :=
  match s.linkOpen, s.tx.txSh with
  | true, .busy b c k p =>
    if 1 < p then s.shiftTo b c k (p - 1)
    else if k + 1 < c.length then s.shiftTo b c (k + 1) s.bitCycles
    else txStartStep (txDoneStep s)
  | true, .idle => txStartStep s
  | false, _ => s

/-- The line `txd`: the current bit of the character, 1 when idle and whenever the link is not OPEN
(41_line_engine.md R162, R164, R166). -/
def State.txd (s : State) : Bool :=
  match s.linkOpen, s.tx.txSh with
  | true, .busy _ c k _ => c.getD k true
  | _, _ => true

/-- `hc_ready = 1` exactly when `seq = IDLE` (10_state.md R29). -/
def State.hcReady (s : State) : Bool := s.sqr.seq == .idle

/-! ## Receive -/

/-- Staging of a good byte: where `rx_stage` is full its oldest byte is discarded and OVERRUN set (41_line_engine.md R171). -/
def stageByte (b : Byte) (s : State) : State :=
  if s.rx.rxStage.length = s.cfg.rxsDepth then
    { s with
      rx := { s.rx with rxStage := s.rx.rxStage.drop 1 ++ [b] }
      lnk := { s.lnk with overrun := true }
      hist := { s.hist with accepted := s.hist.accepted ++ [b], lost := s.hist.lost ++ s.rx.rxStage.take 1 } }
  else
    { s with
      rx := { s.rx with rxStage := s.rx.rxStage ++ [b] }
      hist := { s.hist with accepted := s.hist.accepted ++ [b] } }

/-- A bad character is dropped and LINE_ERR set (41_line_engine.md R167, R170). -/
def dropByte (s : State) : State := { s with lnk := { s.lnk with lineErr := true } }

/-- The byte is recorded in `line_in` (10_state.md R51; 41_line_engine.md R161; log entry 15). -/
def State.recordIn (b : Byte) (s : State) : State :=
  { s with hist := { s.hist with lineIn := s.hist.lineIn ++ [b] } }

/-- `Deliver(b)`: while the link is OPEN the character's byte is staged when good, dropped when bad (41_line_engine.md R161,
R162, R167). What is staged is what the line format lets through of `b` (R169; 70_reset_and_hazards.md R320). -/
def deliverByte (b : Byte) (good : Bool) (s : State) : State :=
  if s.linkOpen then
    (if good then stageByte (lineByte s.csr.lineFmt b) (s.recordIn b) else dropByte (s.recordIn b))
  else s

/-- The receive shifter set. -/
def State.setRxSh (r : RxShifter) (s : State) : State := { s with rx := { s.rx with rxSh := r } }

/-- The sample is remembered and the synchroniser's flops move on (41_line_engine.md R168; log entry 5). -/
def State.shiftSync (rxd : Bool) (s : State) : State :=
  { s with rx := { s.rx with rxPrev := s.rx.rxSync2, rxSync2 := s.rx.rxSync1, rxSync1 := rxd } }

/-- The receiver takes the sample of line bit `k`: the start bit confirms or is a glitch, a later bit is kept, and after the
last stop bit the character is judged and the receiver idle at once (41_line_engine.md R168 to R170; log entry 16). -/
def sampleBit (bits : List Bool) (k : Nat) (sample : Bool) (s : State) : State :=
  if k = 0 then (if sample then s.setRxSh .idle else s.setRxSh (.busy [] 1 s.bitCycles))
  else if k + 1 < charLength s.csr.lineFmt then s.setRxSh (.busy (bits ++ [sample]) (k + 1) s.bitCycles)
  else
    deliverByte (byteOfBits (sampledData s.csr.lineFmt (bits ++ [sample]))) (charGood s.csr.lineFmt (bits ++ [sample]))
      (s.setRxSh .idle)

/-- What one sample of the synchronised line does (41_line_engine.md R168, R169). -/
def receiveSample (sample : Bool) (s : State) : State :=
  match s.rx.rxSh with
  | .idle => if s.rx.rxPrev && !sample then s.setRxSh (.busy [] 0 (s.bitCycles / 2)) else s
  | .busy bits k p => if 1 < p then s.setRxSh (.busy bits k (p - 1)) else sampleBit bits k sample s

/-- One clock cycle of `RxLine`: it runs only while the link is OPEN (41_line_engine.md R162, R168). -/
def rxClock (rxd : Bool) (s : State) : State :=
  if s.linkOpen then (receiveSample s.rx.rxSync2 s).shiftSync rxd else s

end Sys2Proof.Machine
end

