-- ==== Sys2Proof/Machine/Fetch.lean ====
section
/-!
DEFINITION. Which agent steps next and what stands at the sequencer: the next input (log entry 2), acceptance of a code word
(spec/10_state.md R25, R29), the agents' own steps, and the record of the (operation, result) sequence (spec/10_state.md R51).
-/

namespace Sys2Proof.Machine

/-- What a step has to do once its input is known. -/
inductive Fetched where
  /-- The sequencer runs instruction `i` from state `s`; `hostOp` says that a command word stands for it. -/
  | run (i : Instr) (s : State) (hostOp : Bool)
  /-- An agent's own step is done. -/
  | done (s : State)
  /-- A 32-bit number presented as a command frame is none. -/
  | notAFrame
  deriving DecidableEq, Repr

/-- The next input: the head of the schedule, or the next free input (log entry 2). -/
def State.nextInput (s : State) : Input :=
  match s.env.schedule with
  | i :: _ => i
  | [] => Config.freeInput s.env.inputCount

/-- The state with its next input taken (log entry 2). -/
def State.afterInput (s : State) : State :=
  match s.env.schedule with
  | _ :: rest => { s with env := { s.env with schedule := rest } }
  | [] => { s with env := { s.env with inputCount := s.env.inputCount + 1 } }

/-- The (operation, result) sequence grows by the result an operation of the host has just got (10_state.md R51). -/
def State.logResult (before after : State) : State :=
  if !before.res.valid && after.res.valid then
    { after with
      hist := { after.hist with
        opLog := after.hist.opLog ++
          [{ op := after.sqr.pendOp, cmd := after.res.cmd, err := after.res.err, val := after.res.val }] } }
  else after

/-- A code word presented while `seq` is IDLE is taken; while it is not, the port is not ready and nothing is taken
(10_state.md R25, R29; log entry 13). A number from the relay that selects no row is judged by RECV's own checks, which refuse nothing
(43_protocol_driver.md R222 M6 to M8). -/
def present (c : CodeWord) (s : State) : Fetched :=
  if !s.hcReady then .done s
  else match c with
    | .hostCmd w => .run (decodeHost w) (s.accept w) true
    | .relayFrame .toRelay w =>
      match decodeCommandFrame (Frame.ofWord w) with
      | .ok i => .run i s.clearValid false
      | .error _ => .notAFrame
    | .relayFrame .fromRelay w =>
      match decodeFeedbackFrame (Frame.ofWord w) with
      | .ok i => .run i s.clearValid false
      | .error _ => .done (feedbackFrameOp (Frame.ofWord w) s.clearValid)

/-- One input's effect, but for running an instruction (00_scope.md R8; 70_reset_and_hazards.md R300). -/
def react (i : Input) (s : State) : Fetched :=
  match i with
  | .present c => present c s
  | .seqClk devReady => .done (s.logResult (seqClock devReady s))
  | .txClk => .done (txClock s)
  | .rxClk rxd => .done (rxClock rxd s)
  | .waitEnd => .done (s.logResult (waitEnds s))
  | .txStart => .done (txStartStep s)
  | .txDone => .done (txDoneStep s)
  | .deliver b good => .done (deliverByte b good s)
  | .reset => .done s.hardReset

/-- The next input taken and its effect begun. -/
def fetch (s : State) : Fetched := react s.nextInput s.afterInput

/-- What stands around `exec` in a step: a host operation that has got its result is recorded (10_state.md R51). -/
def afterExec (hostOp : Bool) (before : State) : Host.Outcome State Fault Refusal → Host.Outcome State Fault Refusal
  | .next t => .next (if hostOp then before.logResult t else t)
  | .fault e => .fault e
  | .refused r => .refused r

/-- The code word put where the next step fetches: at the head of the schedule, with the command port ready
(20_memory.md R75; log entry 3). -/
def State.withCodeWord (c : CodeWord) (s : State) : State :=
  { s with
    sqr := { s.sqr with seq := .idle }
    env := { s.env with schedule := .present c :: s.env.schedule } }

/-- The bits of an opcode-table row put where the next step fetches (log entries 3 and 9). A width the table does not have
leaves the state as it is. -/
def placeTableWord (s : State) (nbits w : Nat) : State :=
  match tableCodeWord nbits w with
  | some c => s.withCodeWord c
  | none => s

end Sys2Proof.Machine
end

