-- ==== Sys2Proof/Machine/Step.lean ====
section
/-!
DEFINITION. One step of the machine: the next input, and the instruction it presents (spec/00_scope.md R8; spec/10_state.md R25).
-/

namespace Sys2Proof.Machine

/-- One step of one agent (00_scope.md R8). -/
def step (s : State) : Host.Outcome State Fault Refusal :=
  match fetch s with
  | .run i t hostOp => afterExec hostOp t (exec i t)
  | .done t => .next t
  | .notAFrame => .refused .notCommandFrame

/-- `s` with the instruction whose bits are `w` where `step` fetches next (log entry 3). -/
def State.withFetchWord (s : State) (nbits w : Nat) : State := placeTableWord s nbits w

end Sys2Proof.Machine
end

