-- ==== Sys2Proof/Machine/Pseudo.lean ====
section
/-!
DEFINITION. The pseudo-operations of the host, as the instructions it issues (spec/30_encoding.md R108; spec/60_exceptions.md R279). They
are the host's, not the block's: the block never retries anything.
-/

namespace Sys2Proof.Machine

/-- `SETWAIT ms` (30_encoding.md R108). -/
def pseudoSetWait (ms : BitVec 16) : List Instr :=
  [.cfgwr 3#4 (BitVec.ofNat 8 (ms.toNat % 256)), .cfgwr 4#4 (BitVec.ofNat 8 (ms.toNat / 256))]

/-- The first word of `SENDW` (30_encoding.md R108). -/
def pseudoSendwCompose (relayWanted feedbackWanted : Bool) : Instr := .compose relayWanted feedbackWanted

/-- The second word of `SENDW`: the Command that COMPOSE returned, sent to the channel (30_encoding.md R108). -/
def pseudoSendwSend (ch : Byte) (composeResult : OpResult) : Instr := sendForm (commandCode composeResult.cmd) ch

/-- `DISPATCH`: whether the host sends once more with feedback disabled (30_encoding.md R108; 60_exceptions.md R279). -/
def dispatchRetries (want check : Bool) (r : OpResult) : Bool :=
  r.err != .no || (check && r.cmd != reportedCommand want)

/-- `want <- desiredChargerOn xor chargerPolarityIsNormallyOpen` (60_exceptions.md R279). -/
def dispatchWant (desiredChargerOn polarityNormallyOpen : Bool) : Bool := Bool.xor desiredChargerOn polarityNormallyOpen

end Sys2Proof.Machine
end

