-- ==== Sys2Proof/Machine/Ring.lean ====
section
/-!
DEFINITION. The queue at register level (spec/20_memory.md R76): a store of `cap` bytes, a read index and a write index counted modulo
`cap`, an occupancy count. The machine's own queues are lists (spec/00_scope.md R9); that this realisation is one of them is a
statement (log entry 24).
-/

namespace Sys2Proof.Machine

/-- The registers of one ByteBuffer (20_memory.md R76). -/
structure Ring where
  store : List Byte
  rd : Nat
  wr : Nat
  occ : Nat
  deriving DecidableEq, Repr, Inhabited

/-- An empty buffer over a store that holds any bytes; the indices stand at 0, as in every drained buffer (20_memory.md R76). -/
def Ring.emptyOver (store : List Byte) : Ring := { store := store, rd := 0, wr := 0, occ := 0 }

/-- An empty buffer of `cap` bytes. DESIGN CHOICE (log entry 26): the spec does not say what the store of an empty buffer holds; here
every byte of it is 0x00. No statement rests on that value. -/
def Ring.blank (cap : Nat) : Ring := Ring.emptyOver (List.replicate cap 0#8)

/-- Enqueue: writes at `wr` and increments `wr` and `occ` if `occ < CAP` (20_memory.md R76). -/
def Ring.enqueue (b : Byte) (r : Ring) : Ring × Bool :=
  if r.occ < r.store.length then
    ({ r with store := r.store.set r.wr b, wr := (r.wr + 1) % r.store.length, occ := r.occ + 1 }, true)
  else (r, false)

/-- Whenever `occ` becomes 0, `rd` and `wr` are set to 0 (20_memory.md R76). -/
def Ring.settle (r : Ring) : Ring := if r.occ = 0 then { r with rd := 0, wr := 0 } else r

/-- Dequeue: reads at `rd`, increments `rd` and decrements `occ` if `occ > 0` (20_memory.md R76). -/
def Ring.dequeue (r : Ring) : Ring × Option Byte :=
  if 0 < r.occ then
    (Ring.settle { r with rd := (r.rd + 1) % r.store.length, occ := r.occ - 1 }, some (r.store.getD r.rd 0#8))
  else (r, none)

/-- The queue a buffer holds, oldest first. -/
def Ring.contents (r : Ring) : List Byte :=
  (List.range r.occ).map fun i => r.store.getD ((r.rd + i) % r.store.length) 0#8

/-- The registers are consistent: indices inside the store, `wr` the `occ`-th place after `rd`. -/
abbrev Ring.wf (r : Ring) : Prop :=
  1 ≤ r.store.length ∧ r.rd < r.store.length ∧ r.occ ≤ r.store.length ∧ r.wr = (r.rd + r.occ) % r.store.length

end Sys2Proof.Machine
end

