-- ==== Sys2Proof/Safety.lean ====
section
/-!
DEFINITION. What counts as a good state and a safe run, in the terms the statements use: the invariants of spec/20_memory.md R70, R71,
R77, of the sequencer (spec/10_state.md R24 to R29, R41), of the result (spec/30_encoding.md R103), and the permission table of
spec/60_exceptions.md R273.
-/

namespace Sys2Proof.Machine

/-! ## Registers and queues -/

/-- The bounds of 20_memory.md R77: the four queues, `lastChannel`, `init_errs`. -/
abbrev State.withinBounds (s : State) : Prop :=
  Memory.wf s ∧
    (s.drv.lastChannel = 0#8 ∨ (1 ≤ s.drv.lastChannel.toNat ∧ s.drv.lastChannel.toNat ≤ s.cfg.channels)) ∧
    s.sqr.initErrs.toNat ≤ s.cfg.channels

/-- There are N one-bit registers (10_state.md R21). -/
abbrev State.registersPresent (s : State) : Prop := s.drv.relayState.length = s.cfg.channels

/-- The sequencer and the link agree: an OPEN is in progress exactly in the states OPEN_TRY and OPEN_DELAY, and a SEND waits only
while the link is OPEN (10_state.md R24, R41). -/
def State.sequencerAgrees (s : State) : Prop :=
  match s.sqr.seq with
  | .idle => s.lnk.link ≠ .opening
  | .openTry => s.lnk.link = .opening
  | .openDelay => s.lnk.link = .opening
  | .sendWait => s.lnk.link = .opened

/-- INIT is in progress only in its answer waits; then `init_ch` is a channel, and the channels before it are all that can have
been counted (10_state.md R27). -/
abbrev State.initAgrees (s : State) : Prop :=
  s.sqr.initActive = true →
    s.sqr.seq = .sendWait ∧ s.sqr.initErrs.toNat < s.sqr.initCh.toNat ∧ s.sqr.initCh.toNat ≤ s.cfg.channels

/-- `timer` holds `TIMER_W` bits, and a wait in progress has not counted down yet: a wait of length 0 ends at once
(10_state.md R26). -/
abbrev State.timerAgrees (s : State) : Prop :=
  s.sqr.timer < 2 ^ timerWidth s.cfg ∧ (s.sqr.seq = .sendWait ∨ s.sqr.seq = .openDelay → 1 ≤ s.sqr.timer)

/-- The invariant of the machine (20_memory.md R77; 10_state.md R21, R24, R26, R27; 00_scope.md R6). -/
abbrev State.Inv (s : State) : Prop :=
  s.cfg.legal ∧ s.withinBounds ∧ s.registersPresent ∧ s.sequencerAgrees ∧ s.initAgrees ∧ s.timerAgrees

/-- Reserved bits and values never stand in the line parameters (10_state.md R31, R32). -/
abbrev State.csrLegal (s : State) : Prop := baudSelLegal s.csr.baudSel = true ∧ lineFmtLegal s.csr.lineFmt = true

/-- While an OPEN is in progress, between 1 and `MAX_ATTEMPTS` attempts have been made, and less than `MAX_ATTEMPTS` during a delay
(40_transport_ops.md R130). -/
abbrev State.attemptsBounded (s : State) : Prop :=
  s.lnk.link = .opening →
    1 ≤ s.sqr.attempts.toNat ∧ s.sqr.attempts.toNat ≤ s.csr.maxAttempts.toNat ∧
      (s.sqr.seq = .openDelay → s.sqr.attempts.toNat < s.csr.maxAttempts.toNat)

/-- Until the link has been OPEN, the queues are empty and the shifters idle (41_line_engine.md R162; 40_transport_ops.md R130). -/
abbrev State.quietUntilOpen (s : State) : Prop :=
  (s.lnk.link = .closed ∨ s.lnk.link = .opening) →
    s.tx.txq = [] ∧ s.tx.txStage = [] ∧ s.tx.txSh = .idle ∧ s.rx.rxq = [] ∧ s.rx.rxStage = [] ∧ s.rx.rxSh = .idle

/-- What has been received has no bits above the line format's data bits (41_line_engine.md R169; 70_reset_and_hazards.md R320). -/
abbrev State.rxFits (s : State) : Prop := ∀ b ∈ s.rx.rxq ++ s.rx.rxStage, b.toNat < 2 ^ dataBits s.csr.lineFmt

/-- `FCAUSE` is 0 exactly while the link is not FATAL (10_state.md R35). -/
abbrev State.causeAgrees (s : State) : Prop := s.lnk.fcause = FCause.none ↔ s.lnk.link ≠ .fatal

/-- The general law of a result (30_encoding.md R103): an error has `res_cmd = ERROR` and `res_val = 0`; without one `res_cmd` is
never ERROR. -/
abbrev resultLawful (cmd : Command) (err : ErrCode) (val : BitVec 16) : Prop :=
  (err ≠ .no → cmd = .error ∧ val = 0#16) ∧ (err = .no → cmd ≠ .error)

/-! ## Orders -/

/-- The byte in the transmit shifter, if busy (20_memory.md R70). -/
def TxShifter.byteList : TxShifter → List Byte
  | .idle => []
  | .busy b _ _ _ => [b]

/-- Transmit order: what has left, the byte being sent, what is staged and what is queued are the accepted bytes in order
(20_memory.md R70). -/
abbrev State.txOrder (s : State) : Prop :=
  s.hist.lineOut ++ s.tx.txSh.byteList ++ s.tx.txStage ++ s.tx.txq = s.hist.enqueued

/-- Receive order: what was taken, what is in `rxq` and what is staged are accepted bytes in the order of their acceptance
(20_memory.md R71). -/
abbrev State.rxOrder (s : State) : Prop := (s.hist.taken ++ s.rx.rxq ++ s.rx.rxStage).Sublist s.hist.accepted

/-- Receive conservation (40_transport_ops.md R140). -/
abbrev State.rxCount (s : State) : Prop :=
  s.hist.accepted.length = s.rx.rxStage.length + s.rx.rxq.length + s.hist.lost.length + s.hist.taken.length

/-! ## What the statements about SEND say -/

/-- The rows of the opcode table a SEND of Command `c` selects: its sub-form and the generic row (30_encoding.md R109). -/
def sendRows (c : Command) (ch : Byte) : List Instr :=
  match c with
  | .off => [.sendOff ch, .send 0#4 ch]
  | .on => [.sendOn ch, .send 1#4 ch]
  | .offCheck => [.sendOffCheck ch, .send 2#4 ch]
  | .onCheck => [.sendOnCheck ch, .send 3#4 ch]
  | .negateCheck => [.sendNegateCheck ch, .send 4#4 ch]
  | .check => [.sendCheck ch, .send 5#4 ch]
  | .none => [.sendNone ch, .send 6#4 ch]
  | .error => [.sendError ch, .send 7#4 ch]

/-- The row of a command frame of Command `c` (30_encoding.md R92); the sentinels have none. -/
def frameRows (c : Command) (ch ck : Byte) : List Instr :=
  match c with
  | .off => [.frameOff ch ck]
  | .on => [.frameOn ch ck]
  | .offCheck => [.frameOffCheck ch ck]
  | .onCheck => [.frameOnCheck ch ck]
  | .negateCheck => [.frameNegateCheck ch ck]
  | .check => [.frameCheck ch ck]
  | .none => []
  | .error => []

/-- The six wire commands (30_encoding.md R92). -/
abbrev isWireCommand (c : Command) : Prop := c ≠ .none ∧ c ≠ .error

/-- The check-type commands (00_scope.md R12). -/
abbrev isCheckCommand (c : Command) : Prop := c = .offCheck ∨ c = .onCheck ∨ c = .negateCheck ∨ c = .check

/-- Byte `f[2]` of a wire command (30_encoding.md R92). -/
def wireCode : Command → Byte
  | .off => 0x00#8
  | .on => 0x01#8
  | .offCheck => 0x02#8
  | .onCheck => 0x03#8
  | .negateCheck => 0x04#8
  | .check => 0x05#8
  | .none => 0x06#8
  | .error => 0x07#8

/-- The prediction table of 43_protocol_driver.md R211. -/
def predictionOf (c : Command) (old : Bool) : Bool :=
  match c with
  | .off => false
  | .on => true
  | .offCheck => false
  | .onCheck => true
  | .negateCheck => !old
  | .check => old
  | .none => old
  | .error => old

/-- The state after a frame's bytes met `txq` and a flush followed: `txq` accepted as many of them as it had room for, and the
flush moved the oldest bytes into the room of `tx_stage` (43_protocol_driver.md R220 L8, L9). -/
def State.frameQueued (f : Frame) (s : State) : State :=
  let entered := f.bytes.take (s.cfg.cap - s.tx.txq.length)
  let q := s.tx.txq ++ entered
  let k := min q.length (s.cfg.txsDepth - s.tx.txStage.length)
  { s with
    tx := { s.tx with txq := q.drop k, txStage := s.tx.txStage ++ q.take k }
    hist := { s.hist with enqueued := s.hist.enqueued ++ entered } }

/-- `relayState[ch]` predicted and `lastChannel` written (43_protocol_driver.md R220 L4, L5). -/
def State.predictedFor (c : Command) (ch : Byte) (s : State) : State :=
  { s with
    drv :=
      { relayState := s.drv.relayState.set (ch.toNat - 1) (predictionOf c (s.drv.relayState.getD (ch.toNat - 1) false))
        lastChannel := ch } }

/-- The state after SEND's lines L4 to L9 (43_protocol_driver.md R220). -/
def State.sentFor (c : Command) (ch : Byte) (s : State) : State :=
  (s.predictedFor c ch).frameQueued (mkFrame ch (wireCode c))

/-- The queues have room for a whole frame to be handed over: no byte is rejected and the flush moves 4 bytes
(43_protocol_driver.md R220 L10). -/
abbrev State.roomForFrame (s : State) : Prop :=
  s.tx.txq.length + 4 ≤ s.cfg.cap ∧ s.tx.txStage.length + 4 ≤ s.cfg.txsDepth

/-- The state after a poll (40_transport_ops.md R133 L2, L3). -/
def State.polled (s : State) : State :=
  let k := min s.rx.rxStage.length (s.cfg.cap - s.rx.rxq.length)
  { s with rx := { s.rx with rxq := s.rx.rxq ++ s.rx.rxStage.take k, rxStage := s.rx.rxStage.drop k } }

/-- The state after all of `rxq` is removed (43_protocol_driver.md R222 M4, M5). -/
def State.drained (s : State) : State :=
  { s with
    rx := { s.rx with rxq := [] }
    hist := { s.hist with taken := s.hist.taken ++ s.rx.rxq } }

/-- Instructions that may write the driver's registers: the protocol driver's line operations and a feedback frame
(10_state.md R22). -/
def mayWriteDriver : Instr → Bool
  | .init | .send _ _ | .sendOff _ | .sendOn _ | .sendOffCheck _ | .sendOnCheck _ | .sendNegateCheck _ | .sendCheck _
  | .sendNone _ | .sendError _ | .sendReserved _ _ | .recv | .fbOff _ _ | .fbOn _ _ => true
  | .reserved0 | .cfgwr _ _ | .openLink | .enq _ | .flush | .poll | .deq | .pendw | .pendr | .compose _ _ | .cmd2bool _
  | .rdstate _ | .rdcsr _ | .frameOff _ _ | .frameOn _ _ | .frameOffCheck _ _ | .frameOnCheck _ _
  | .frameNegateCheck _ _ | .frameCheck _ _ => false

/-- The link states a step may lead to, reset apart (10_state.md R41). -/
def linkMayBecome : Link → Link → Bool
  | .closed, .closed => true
  | .closed, .opening => true
  | .closed, .fatal => true
  | .opening, .opening => true
  | .opening, .opened => true
  | .opening, .fatal => true
  | .opened, .opened => true
  | .opened, .fatal => true
  | .fatal, .fatal => true
  | _, _ => false

/-! ## Runs and fairness -/

/-- The state with `n` as the one input it is offered (log entry 2). -/
def State.offered (n : Input) (s : State) : State := { s with env := { s.env with schedule := [n] } }

/-- A run: `inputs k` is what the agents do in step `k`, and `states k` is the state before it (00_scope.md R8). Every sequence of
inputs is admitted. -/
abbrev isRun (inputs : Nat → Input) (states : Nat → State) : Prop :=
  ∀ k, step ((states k).offered (inputs k)) = .next (states (k + 1))

/-- The agents whose steps, once begun, are owed (70_reset_and_hazards.md R318). `Host` and `Env` owe none: `Env` may deliver nothing at
all (41_line_engine.md R161; log entry 25). -/
inductive Owing where
  | seq | txLine | rxLine
  deriving DecidableEq, Repr

/-- When an agent owes a step: an operation is in progress; a byte is staged or being sent; a character is being received. -/
def Owing.enabled (a : Owing) (s : State) : Prop :=
  match a with
  | .seq => s.sqr.seq ≠ .idle
  | .txLine => s.lnk.link = .opened ∧ (s.tx.txSh ≠ .idle ∨ s.tx.txStage ≠ [])
  | .rxLine => s.lnk.link = .opened ∧ s.rx.rxSh ≠ .idle

/-- Which inputs are an agent's step in a state: a clock cycle of the agent, or its untimed event where that is enabled. -/
def Owing.takenBy (a : Owing) (s : State) (n : Input) : Prop :=
  match a with
  | .seq => (∃ d, n = .seqClk d) ∨ (n = .waitEnd ∧ (s.sqr.seq = .sendWait ∨ s.sqr.seq = .openDelay))
  | .txLine => n = .txClk ∨ (n = .txStart ∧ s.tx.txSh = .idle) ∨ (n = .txDone ∧ s.tx.txSh ≠ .idle)
  | .rxLine => ∃ x, n = .rxClk x

/-- Weak fairness: a step that is owed from some time on for ever is taken (10_state.md R26; 70_reset_and_hazards.md R318). -/
abbrev weaklyFair (inputs : Nat → Input) (states : Nat → State) : Prop :=
  ∀ (a : Owing) (k : Nat), (∀ m ≥ k, a.enabled (states m)) → ∃ m ≥ k, a.takenBy (states m) (inputs m)

/-! ## Permission -/

/-- The first test of an operation (60_exceptions.md R273). -/
inductive Verdict where
  | ok | badState | illOp
  deriving DecidableEq, Repr

/-- The host operations: the rows of format HOST_CMD (30_encoding.md R102, R109). -/
def isHostOp : Instr → Bool
  | .frameOff _ _ | .frameOn _ _ | .frameOffCheck _ _ | .frameOnCheck _ _ | .frameNegateCheck _ _ | .frameCheck _ _
  | .fbOff _ _ | .fbOn _ _ => false
  | .reserved0 | .cfgwr _ _ | .openLink | .enq _ | .flush | .poll | .deq | .pendw | .pendr | .init
  | .send _ _ | .sendOff _ | .sendOn _ | .sendOffCheck _ | .sendOnCheck _ | .sendNegateCheck _ | .sendCheck _
  | .sendNone _ | .sendError _ | .sendReserved _ _ | .recv | .compose _ _ | .cmd2bool _ | .rdstate _ | .rdcsr _ => true

/-- One row of the permission table, by its columns CLOSED and OPEN; every operation but RDCSR is `badState` in FATAL
(60_exceptions.md R273). The table has no column OPENING, because no word is accepted then. -/
def permissionRow (closed opened : Verdict) : Link → Verdict
  | .closed => closed
  | .opening => .ok
  | .opened => opened
  | .fatal => .badState

/-- The permission table (60_exceptions.md R273). A relay frame is no host operation and has no row in it. -/
def permission : Instr → Link → Verdict
  | .reserved0 => permissionRow .illOp .illOp
  | .cfgwr a _ =>
    if a.toNat ≤ 2 then permissionRow .ok .badState
    else if a.toNat ≤ 4 then permissionRow .ok .ok
    else permissionRow .illOp .illOp
  | .openLink => permissionRow .ok .badState
  | .enq _ | .flush | .poll | .deq | .pendw | .pendr => permissionRow .badState .ok
  | .init | .send _ _ | .sendOff _ | .sendOn _ | .sendOffCheck _ | .sendOnCheck _ | .sendNegateCheck _ | .sendCheck _
  | .sendNone _ | .sendError _ | .sendReserved _ _ | .recv => permissionRow .badState .ok
  | .compose _ _ | .cmd2bool _ | .rdstate _ => permissionRow .ok .ok
  | .rdcsr _ => fun _ => .ok
  | .frameOff _ _ | .frameOn _ _ | .frameOffCheck _ _ | .frameOnCheck _ _ | .frameNegateCheck _ _ | .frameCheck _ _
  | .fbOff _ _ | .fbOn _ _ => fun _ => .ok

end Sys2Proof.Machine
end

