-- ==== Sys2Proof/Certificates/Slice0/Obligations.lean ====
section
/-!
DEFINITION. The statements for the provers, as propositions. Each docstring names the rule of spec/ it formalises, or says that it rests
on a choice of the model and names the log entry.
-/

open Sys2Proof Sys2Proof.Machine

/-! ## Encoding -/

/-- Decode and encode agree on every well-formed instruction, with every operand; the generic SEND row is read as the sub-form
its word also selects, which means the same in every state (30_encoding.md R101, R102, R91 to R93, R109; log entry 8). A 32-bit number
is read as a frame only where the frame holds its own checksum, and no bit of it is dropped (R109). -/
def Obligations.DecodeOfEncode : Prop :=
  (∀ i : Instr, i.wellFormed = true → decode (encode i) = .ok i.asDecoded) ∧
  (∀ (i : Instr) (s : State), exec i.asDecoded s = exec i s) ∧
  (∀ (d : Direction) (w : FrameWord) (i : Instr), decode (.relayFrame d w) = .ok i →
    i.wellFormed = true ∧ encode i = .relayFrame d w)

/-- Every 16-bit word has a row, its instruction is well formed, only `op = 0` is the reserved code, and a field an operation does
not use is ignored (30_encoding.md R101, R102, R104). -/
def Obligations.CommandWordDecoding : Prop :=
  (∀ w : HostWord, ∃ i : Instr, decode (.hostCmd w) = .ok i ∧ i.wellFormed = true ∧ isHostOp i = true ∧
    (i = .reserved0 ↔ w.toNat / 4096 = 0)) ∧
  (∀ w v : HostWord, w.toNat / 4096 = v.toNat / 4096 →
    (w.toNat / 4096 ∈ [0, 2, 4, 5, 6, 7, 8, 9, 11] → decode (.hostCmd w) = decode (.hostCmd v)) ∧
    (w.toNat / 4096 ∈ [3, 14] → w.toNat % 256 = v.toNat % 256 → decode (.hostCmd w) = decode (.hostCmd v)) ∧
    (w.toNat / 4096 ∈ [13, 15] → w.toNat / 256 = v.toNat / 256 → decode (.hostCmd w) = decode (.hostCmd v)) ∧
    (w.toNat / 4096 = 12 → w.toNat / 256 % 4 = v.toNat / 256 % 4 → decode (.hostCmd w) = decode (.hostCmd v)))

/-- Words written out from the encoding tables decode to the instruction they stand for (30_encoding.md R102, R107, R92). -/
def Obligations.WrittenWordsDecode : Prop :=
  decode (.hostCmd 0b0001001100110010#16) = .ok (.cfgwr 3#4 50#8) ∧
  decode (.hostCmd 0b0011000010100000#16) = .ok (.enq 0xA0#8) ∧
  decode (.hostCmd 0b1010001100000110#16) = .ok (.sendOnCheck 6#8) ∧
  decode (.hostCmd 0b1010111100000110#16) = .ok (.sendReserved 15#4 6#8) ∧
  decode (.hostCmd 0b1100001100000000#16) = .ok (.compose true true) ∧
  decode (.hostCmd 0b1100000100000000#16) = .ok (.compose true false) ∧
  decode (.hostCmd 0b1111010100000000#16) = .ok (.rdcsr 5#4) ∧
  decode (.relayFrame .toRelay 0b10100000000001100000001110101001#32) = .ok (.frameOnCheck 6#8 0xA9#8) ∧
  decode (.relayFrame .fromRelay 0b10100000000001100000000110100111#32) = .ok (.fbOn 6#8 0xA7#8)

/-! ## Framer -/

/-- The checksum is the low 8 bits of the sum of the three bytes, in any order; building and checking are inverse on valid frames
(42_framer.md R190, R195). -/
def Obligations.ChecksumAndFrameLaws : Prop :=
  (∀ m c k : Byte, (cks m c k).toNat = (m.toNat + c.toNat + k.toNat) % 256 ∧ cks m c k = m + c + k ∧
    cks m c k = cks c m k ∧ cks m c k = cks m k c) ∧
  (∀ ch code : Byte, (mkFrame ch code).valid = true) ∧
  (∀ f : Frame, f.valid = true → mkFrame f.f1 f.f2 = f)

/-- A change of exactly one byte of a valid frame is rejected; changes to two of the bytes 1 to 3 that cancel are not
(42_framer.md R193, R194). -/
def Obligations.ByteChangesCaughtOrNot : Prop :=
  ∀ (f : Frame) (x e : Byte), f.valid = true →
    (x ≠ f.f0 → ({ f with f0 := x } : Frame).valid = false) ∧
    (x ≠ f.f1 → ({ f with f1 := x } : Frame).valid = false) ∧
    (x ≠ f.f2 → ({ f with f2 := x } : Frame).valid = false) ∧
    (x ≠ f.f3 → ({ f with f3 := x } : Frame).valid = false) ∧
    ({ f with f1 := f.f1 + e, f2 := f.f2 - e } : Frame).valid = true ∧
    ({ f with f1 := f.f1 + e, f3 := f.f3 + e } : Frame).valid = true ∧
    ({ f with f2 := f.f2 + e, f3 := f.f3 + e } : Frame).valid = true

/-! ## Ending an operation -/

/-- What ending an operation writes: a raised error, a normal end, and the fatal state, and nothing else (60_exceptions.md R276
"Entry", R272; 10_state.md R49). That `pend_op` and `timer` keep their values there is the model's choice (log entry 4; U24 of
93_implementation_defined.md leaves them any value). -/
def Obligations.EndingWritesOnlyTheResult : Prop :=
  ∀ (s : State) (e : ErrCode) (r : OpResult) (c : FCause),
    s.raise e =
      { s with
        sqr := { s.sqr with seq := .idle }
        res := { valid := true, cmd := .error, err := e, val := 0#16 } } ∧
    s.finish r =
      { s with
        sqr := { s.sqr with seq := .idle }
        res := { valid := true, cmd := r.cmd, err := r.err, val := r.val } } ∧
    s.enterFatal c =
      { s with
        lnk := { s.lnk with link := .fatal, fcause := c }
        sqr := { s.sqr with seq := .idle, initActive := false }
        res := { valid := true, cmd := .error, err := .fatal, val := 0#16 } }

/-- The permission table: the first test of every host operation is on the link state (60_exceptions.md R273; RESERVED0:
30_encoding.md R104). -/
def Obligations.LinkPermissions : Prop :=
  (∀ (i : Instr) (s : State), isHostOp i = true → s.lnk.link ≠ .opening →
    (permission i s.lnk.link = .badState → exec i s = .next (s.raise .badState)) ∧
    (permission i s.lnk.link = .illOp → exec i s = .next (s.raise .illOp))) ∧
  (∀ s : State, s.lnk.link ≠ .fatal → exec .reserved0 s = .next (s.raise .illOp))

/-- `exec` answers a next state for every instruction in every state, and no instruction changes the parameters. For an OPEN and for a
SEND or INIT that waits this state is the beginning of its wait (that the wait ends: FairRunsEndOperations). A relay frame run alone is
the model's choice (log entry 7). (40_transport_ops.md R137; 70_reset_and_hazards.md R310.) -/
def Obligations.EveryOperationCompletes : Prop :=
  ∀ (i : Instr) (s : State), ∃ t : State, exec i s = .next t ∧ t.cfg = s.cfg

/-! ## Transport -/

/-- CFGWR: the write, and its refusals in their order (40_transport_ops.md R138; 60_exceptions.md R275). -/
def Obligations.CfgwrWritesOrRefuses : Prop :=
  ∀ (s : State) (a : BitVec 4) (v : Byte),
    (s.lnk.link = .fatal → exec (.cfgwr a v) s = .next (s.raise .badState)) ∧
    (s.lnk.link ≠ .fatal → 5 ≤ a.toNat → exec (.cfgwr a v) s = .next (s.raise .illOp)) ∧
    (s.lnk.link ≠ .fatal → a.toNat ≤ 2 → s.lnk.link ≠ .closed → exec (.cfgwr a v) s = .next (s.raise .badState)) ∧
    (s.lnk.link = .closed → a = 0#4 → 8 ≤ v.toNat → exec (.cfgwr a v) s = .next (s.raise .illOp)) ∧
    (s.lnk.link = .closed → a = 1#4 → (32 ≤ v.toNat ∨ v.toNat / 4 % 4 = 3) →
      exec (.cfgwr a v) s = .next (s.raise .illOp)) ∧
    (s.lnk.link = .closed → a = 0#4 → v.toNat < 8 →
      exec (.cfgwr a v) s = .next (State.finish (OpResult.value 0#16) { s with csr := { s.csr with baudSel := v } })) ∧
    (s.lnk.link = .closed → a = 1#4 → v.toNat < 32 → v.toNat / 4 % 4 ≠ 3 →
      exec (.cfgwr a v) s = .next (State.finish (OpResult.value 0#16) { s with csr := { s.csr with lineFmt := v } })) ∧
    (s.lnk.link = .closed → a = 2#4 →
      exec (.cfgwr a v) s = .next (State.finish (OpResult.value 0#16) { s with csr := { s.csr with maxAttempts := v } })) ∧
    (s.lnk.link ≠ .fatal → a = 3#4 →
      exec (.cfgwr a v) s = .next (State.finish (OpResult.value 0#16) { s with csr := { s.csr with waitLo := v } })) ∧
    (s.lnk.link ≠ .fatal → a = 4#4 →
      exec (.cfgwr a v) s = .next (State.finish (OpResult.value 0#16) { s with csr := { s.csr with waitHi := v } }))

/-- RDCSR in every link state, for every index; `STATUS` by its bit fields (40_transport_ops.md R139; 10_state.md R30, R35). -/
def Obligations.RdcsrReads : Prop :=
  ∀ (s : State) (a : BitVec 4),
    exec (.rdcsr a) s = .next (
      if a = 0#4 then s.finish (OpResult.value (BitVec.ofNat 16 s.csr.baudSel.toNat))
      else if a = 1#4 then s.finish (OpResult.value (BitVec.ofNat 16 s.csr.lineFmt.toNat))
      else if a = 2#4 then s.finish (OpResult.value (BitVec.ofNat 16 s.csr.maxAttempts.toNat))
      else if a = 3#4 then s.finish (OpResult.value (BitVec.ofNat 16 s.csr.waitLo.toNat))
      else if a = 4#4 then s.finish (OpResult.value (BitVec.ofNat 16 s.csr.waitHi.toNat))
      else if a = 5#4 then s.finish (OpResult.value (BitVec.ofNat 16
        ((match s.lnk.link with | .closed => 0 | .opening => 1 | .opened => 2 | .fatal => 3) + 4 * s.lnk.overrun.toNat +
          8 * s.lnk.lineErr.toNat + 16 * (match s.lnk.fcause with | .none => 0 | .openFail => 1 | .badBool => 2))))
      else if a = 6#4 then s.finish (OpResult.value (BitVec.ofNat 16 s.drv.lastChannel.toNat))
      else if a = 7#4 then s.finish (OpResult.value (BitVec.ofNat 16 (s.cfg.channels % 256)))
      else if a = 8#4 then s.finish (OpResult.value (BitVec.ofNat 16 s.sqr.initErrs.toNat))
      else s.raise .illOp)

/-- OPEN up to its first attempt (40_transport_ops.md R130 L1 to L5). That the attempt's sample is a step of its own is the
model's reading (log entry 6). -/
def Obligations.OpenBegins : Prop :=
  ∀ s : State,
    (s.lnk.link ≠ .closed → exec .openLink s = .next (s.raise .badState)) ∧
    (s.lnk.link = .closed → s.csr.maxAttempts = 0#8 → exec .openLink s = .next (s.enterFatal .openFail)) ∧
    (s.lnk.link = .closed → s.csr.maxAttempts ≠ 0#8 →
      exec .openLink s = .next
        { s with
          lnk := { s.lnk with link := .opening }
          sqr := { s.sqr with attempts := 1#8, seq := .openTry } })

/-- An open attempt: success, the last failure, a failure before the last, and the end of the delay (40_transport_ops.md R130
L5 to L9). That 2 seconds have a clock cycle is a premise; the 0 that `timer` keeps after the delay is the model's choice
(log entry 4). -/
def Obligations.OpenAttemptOutcome : Prop :=
  ∀ (s : State) (d : Bool),
    (s.sqr.seq = .openTry →
      seqClock true s = State.finish (OpResult.value (BitVec.ofNat 16 s.sqr.attempts.toNat))
        { s with lnk := { s.lnk with link := .opened } }) ∧
    (s.sqr.seq = .openTry → s.sqr.attempts = s.csr.maxAttempts → seqClock false s = s.enterFatal .openFail) ∧
    (s.sqr.seq = .openTry → s.sqr.attempts ≠ s.csr.maxAttempts → 0 < s.cfg.clkHz →
      seqClock false s = { s with sqr := { s.sqr with seq := .openDelay, timer := 2 * s.cfg.clkHz } }) ∧
    (s.sqr.seq = .openDelay → s.sqr.timer = 1 →
      seqClock d s = { s with sqr := { s.sqr with seq := .openTry, timer := 0, attempts := s.sqr.attempts + 1#8 } }) ∧
    (s.sqr.seq = .openDelay →
      waitEnds s = { s with sqr := { s.sqr with seq := .openTry, timer := 0, attempts := s.sqr.attempts + 1#8 } })

/-- ENQ (40_transport_ops.md R131). -/
def Obligations.EnqAppendsOrRejects : Prop :=
  ∀ (s : State) (b : Byte),
    (s.lnk.link ≠ .opened → exec (.enq b) s = .next (s.raise .badState)) ∧
    (s.lnk.link = .opened → s.tx.txq.length = s.cfg.cap →
      exec (.enq b) s = .next (s.finish (OpResult.value 0#16))) ∧
    (s.lnk.link = .opened → s.tx.txq.length ≠ s.cfg.cap →
      exec (.enq b) s = .next (State.finish (OpResult.value 1#16)
        { s with
          tx := { s.tx with txq := s.tx.txq ++ [b] }
          hist := { s.hist with enqueued := s.hist.enqueued ++ [b] } }))

/-- FLUSH (40_transport_ops.md R132). -/
def Obligations.FlushMovesOldest : Prop :=
  ∀ (s : State) (k : Nat), k = min s.tx.txq.length (s.cfg.txsDepth - s.tx.txStage.length) →
    (s.lnk.link ≠ .opened → exec .flush s = .next (s.raise .badState)) ∧
    (s.lnk.link = .opened →
      exec .flush s = .next (State.finish (OpResult.value (BitVec.ofNat 16 k))
        { s with tx := { s.tx with txq := s.tx.txq.drop k, txStage := s.tx.txStage ++ s.tx.txq.take k } }))

/-- POLL (40_transport_ops.md R133). -/
def Obligations.PollMovesStaged : Prop :=
  ∀ (s : State) (k : Nat), k = min s.rx.rxStage.length (s.cfg.cap - s.rx.rxq.length) →
    (s.lnk.link ≠ .opened → exec .poll s = .next (s.raise .badState)) ∧
    (s.lnk.link = .opened →
      exec .poll s = .next (State.finish (OpResult.value (BitVec.ofNat 16 (s.rx.rxq.length + k)))
        { s with rx := { s.rx with rxq := s.rx.rxq ++ s.rx.rxStage.take k, rxStage := s.rx.rxStage.drop k } }))

/-- DEQ (40_transport_ops.md R134). -/
def Obligations.DeqTakesOldest : Prop :=
  ∀ s : State,
    (s.lnk.link ≠ .opened → exec .deq s = .next (s.raise .badState)) ∧
    (s.lnk.link = .opened → s.rx.rxq = [] → exec .deq s = .next (s.raise .empty)) ∧
    (∀ (b : Byte) (rest : List Byte), s.lnk.link = .opened → s.rx.rxq = b :: rest →
      exec .deq s = .next (State.finish (OpResult.value (BitVec.ofNat 16 b.toNat))
        { s with
          rx := { s.rx with rxq := rest }
          hist := { s.hist with taken := s.hist.taken ++ [b] } }))

/-- PENDW and PENDR: the queue depths, and no other change (40_transport_ops.md R135, R136). -/
def Obligations.PendingCounts : Prop :=
  ∀ s : State,
    (s.lnk.link ≠ .opened →
      exec .pendw s = .next (s.raise .badState) ∧ exec .pendr s = .next (s.raise .badState)) ∧
    (s.lnk.link = .opened →
      exec .pendw s = .next (s.finish (OpResult.value (BitVec.ofNat 16 s.tx.txq.length))) ∧
      exec .pendr s = .next (s.finish (OpResult.value (BitVec.ofNat 16 s.rx.rxq.length))))

/-! ## SEND -/

/-- SEND's operand tests: the channel first, then the command; SEND.NONE, SEND.ERROR, SEND.RESERVED change nothing
(43_protocol_driver.md R218, R219, R220 L2, L3; 60_exceptions.md R275). -/
def Obligations.SendRefusesOperands : Prop :=
  ∀ (s : State) (cmd : BitVec 4) (ch : Byte), s.lnk.link = .opened →
    (ch.toNat < 1 ∨ s.cfg.channels < ch.toNat → ∀ i ∈ [Instr.send cmd ch, sendForm cmd ch],
      exec i s = .next (s.raise .invChan)) ∧
    (1 ≤ ch.toNat → ch.toNat ≤ s.cfg.channels →
      exec (.sendNone ch) s = .next (s.raise .wrngCom) ∧
      exec (.sendError ch) s = .next (s.raise .wrngCom) ∧
      (8 ≤ cmd.toNat → exec (.sendReserved cmd ch) s = .next (s.raise .wrngCom)) ∧
      (6 ≤ cmd.toNat → exec (.send cmd ch) s = .next (s.raise .wrngCom)))

/-- SEND of OFF and of ON, by their own rows and the generic row: the prediction, `lastChannel`, the frame handed over, the result
`(NONE, NO)` at once, and nothing else changed (43_protocol_driver.md R212, R213, R220). -/
def Obligations.PlainSendCompletes : Prop :=
  ∀ (s : State) (c : Command) (ch : Byte) (i : Instr), c = .off ∨ c = .on → i ∈ sendRows c ch →
    s.lnk.link = .opened → 1 ≤ ch.toNat → ch.toNat ≤ s.cfg.channels → s.roomForFrame →
    exec i s = .next ((s.sentFor c ch).finish (OpResult.value 0#16))

/-- SEND of a check-type command with a wait, at a legal clock: after the frame the sequencer is in SEND_WAIT for
`ANSWER_WAIT_MS * CYC_PER_MS` cycles, and nothing else changed (43_protocol_driver.md R214 to R217, R220 L13, R221). -/
def Obligations.CheckSendWaits : Prop :=
  ∀ (s : State) (c : Command) (ch : Byte) (i : Instr), s.cfg.legal → isCheckCommand c → i ∈ sendRows c ch →
    s.lnk.link = .opened → 1 ≤ ch.toNat → ch.toNat ≤ s.cfg.channels → s.roomForFrame →
    256 * s.csr.waitHi.toNat + s.csr.waitLo.toNat ≠ 0 →
    exec i s = .next
      { s.sentFor c ch with
        sqr := { s.sqr with
          seq := .sendWait
          timer := (256 * s.csr.waitHi.toNat + s.csr.waitLo.toNat) * (s.cfg.clkHz / 1000) } }

/-- SEND of a check-type command with the answer wait 0: the frame is sent, the result is NORECV (43_protocol_driver.md R220 L12;
60_exceptions.md R262 (a)). -/
def Obligations.CheckSendWithoutWait : Prop :=
  ∀ (s : State) (c : Command) (ch : Byte) (i : Instr), isCheckCommand c → i ∈ sendRows c ch →
    s.lnk.link = .opened → 1 ≤ ch.toNat → ch.toNat ≤ s.cfg.channels → s.roomForFrame →
    s.csr.waitHi = 0#8 → s.csr.waitLo = 0#8 →
    exec i s = .next ((s.sentFor c ch).raise .noRecv)

/-- SEND of a wire command whose frame is not handed over whole: NOSEND, with the prediction kept, the bytes for which `txq` had
room queued and the flush done (43_protocol_driver.md R220 L8 to L10; 60_exceptions.md R263; 70_reset_and_hazards.md R313). -/
def Obligations.ShortSendReportsNoSend : Prop :=
  ∀ (s : State) (c : Command) (ch : Byte) (i : Instr), isWireCommand c → i ∈ sendRows c ch →
    s.lnk.link = .opened → 1 ≤ ch.toNat → ch.toNat ≤ s.cfg.channels → s.tx.txq.length ≤ s.cfg.cap → ¬ s.roomForFrame →
    exec i s = .next ((s.sentFor c ch).raise .noSend)

/-- The six FRAME rows: the frame's bytes, the checksum byte as it stands, are enqueued and flushed, and nothing else changes. That a
frame word is run alone, and only while the link is OPEN, is the model's choice (log entry 7); its effect is lines L7 to L10 of
43_protocol_driver.md R220. -/
def Obligations.CommandFrameHandedOver : Prop :=
  ∀ (s : State) (c : Command) (ch ck : Byte) (i : Instr) (f : Frame), i ∈ frameRows c ch ck →
    f = { f0 := 0xA0#8, f1 := ch, f2 := wireCode c, f3 := ck } →
    (s.lnk.link ≠ .opened → exec i s = .next (s.raise .badState)) ∧
    (s.lnk.link = .opened → s.roomForFrame → exec i s = .next ((s.frameQueued f).finish (OpResult.value 0#16))) ∧
    (s.lnk.link = .opened → s.tx.txq.length ≤ s.cfg.cap → ¬ s.roomForFrame →
      exec i s = .next ((s.frameQueued f).raise .noSend))

/-! ## RECV and feedback frames -/

/-- RECV: the poll, NORECV below 4 bytes with the bytes kept, else the 4 newest bytes judged in the spec's order with `rxq`
emptied (43_protocol_driver.md R222). -/
def Obligations.RecvJudgesNewestFour : Prop :=
  ∀ s : State,
    (s.lnk.link ≠ .opened → exec .recv s = .next (s.raise .badState)) ∧
    (s.lnk.link = .opened → s.polled.rx.rxq.length < 4 → exec .recv s = .next (s.polled.raise .noRecv)) ∧
    (∀ (old : List Byte) (f : Frame), s.lnk.link = .opened → s.polled.rx.rxq = old ++ [f.f0, f.f1, f.f2, f.f3] →
      exec .recv s = .next (
        if ¬ (f.f0 = 0xA0#8 ∧ f.f3 = cks f.f0 f.f1 f.f2) then s.polled.drained.raise .wrngCrc
        else if s.drv.lastChannel = 0#8 ∨ f.f1 ≠ s.drv.lastChannel then s.polled.drained.raise .wrngRel
        else if 1 < f.f2.toNat then s.polled.drained.raise .wrngCom
        else if decide (f.f2 = 1#8) ≠ s.drv.relayState.getD (f.f1.toNat - 1) false then
          State.raise .wrngSta
            { s.polled.drained with
              drv := { s.drv with relayState := s.drv.relayState.set (f.f1.toNat - 1) (decide (f.f2 = 1#8)) } }
        else s.polled.drained.finish { cmd := if f.f2 = 1#8 then .on else .off, err := .no, val := 0#16 }))

/-- FB_OFF and FB_ON as RECV's window (43_protocol_driver.md R232, R233). That a frame word is run alone, and only while the link is
OPEN, is the model's choice (log entry 7). -/
def Obligations.FeedbackFrameOutcome : Prop :=
  ∀ (s : State) (ch ck : Byte) (i : Instr) (rep : Bool), i = (if rep then .fbOn ch ck else .fbOff ch ck) →
    (s.lnk.link ≠ .opened → exec i s = .next (s.raise .badState)) ∧
    (s.lnk.link = .opened → i.wellFormed = false → exec i s = .next (s.raise .wrngCrc)) ∧
    (s.lnk.link = .opened → i.wellFormed = true → ch ≠ s.drv.lastChannel ∨ s.drv.lastChannel = 0#8 →
      exec i s = .next (s.raise .wrngRel)) ∧
    (s.lnk.link = .opened → i.wellFormed = true → ch = s.drv.lastChannel → s.drv.lastChannel ≠ 0#8 →
      s.drv.relayState.getD (ch.toNat - 1) false = rep →
      exec i s = .next (s.finish { cmd := if rep then .on else .off, err := .no, val := 0#16 })) ∧
    (s.lnk.link = .opened → i.wellFormed = true → ch = s.drv.lastChannel → s.drv.lastChannel ≠ 0#8 →
      s.drv.relayState.getD (ch.toNat - 1) false ≠ rep →
      exec i s = .next (State.raise .wrngSta
        { s with drv := { s.drv with relayState := s.drv.relayState.set (ch.toNat - 1) rep } }))

/-- RECV's laws: it writes no register of `relayState` but `lastChannel`'s, keeps `lastChannel`, leaves fewer than 4 bytes in
`rxq`, and after WRNGSTA or a reported state the register holds what was reported (43_protocol_driver.md R234 (b), (c), (d); R226).
With fewer than 8 data bits no marker comes over the line and RECV never reports a state (70_reset_and_hazards.md R320). -/
def Obligations.RecvWritesOnlyLastChannel : Prop :=
  ∀ (s t : State), exec .recv s = .next t → s.lnk.link = .opened →
    t.drv.lastChannel = s.drv.lastChannel ∧
    (∀ ch : Byte, ch ≠ s.drv.lastChannel → t.relay ch = s.relay ch) ∧
    t.rx.rxq.length < 4 ∧ (t.res.err ≠ .noRecv → t.rx.rxq = []) ∧
    (t.res.err = .wrngSta → s.drv.lastChannel.toNat ≤ s.drv.relayState.length →
      t.relay s.drv.lastChannel = !s.relay s.drv.lastChannel) ∧
    (t.res.err ≠ .wrngSta → t.drv = s.drv) ∧
    (t.res.err = .no → t.res.cmd = if s.relay s.drv.lastChannel then .on else .off) ∧
    (s.rxFits → s.csr.lineFmt.toNat % 4 ≠ 3 → t.res.err = .noRecv ∨ t.res.err = .wrngCrc)

/-- The end of a SEND's wait, which `waitEnds` and the sequencer's clock cycle at `timer` 1 bring (10_state.md R26): the SEND ends as
the RECV it calls ends, from the state with `seq` IDLE and no wait in progress (43_protocol_driver.md R220 L14, L15; R214 to R217;
vector S4), so the poll, the emptied `rxq`, the correction with WRNGSTA and every error are RECV's. With no error the result is ON or
OFF and equals the prediction and the register, so that a host that asked for ON or OFF with feedback never retries for a mismatch (R234
(a); 60_exceptions.md R279). The 0 in `timer` is the model's choice (log entry 4). -/
def Obligations.AnswerEqualsPrediction : Prop :=
  ∀ (s : State) (want : Bool), s.sqr.seq = .sendWait → s.sqr.initActive = false →
    (waitEnds s = answerWaitEnds s ∧ ∀ d : Bool, s.sqr.timer = 1 → seqClock d s = answerWaitEnds s) ∧
    (s.lnk.link = .opened →
      exec .recv { s with sqr := { s.sqr with seq := .idle, timer := 0 } } = .next (answerWaitEnds s)) ∧
    (answerWaitEnds s).sqr.seq = .idle ∧ (answerWaitEnds s).res.valid = true ∧
    ((answerWaitEnds s).res.err = .no →
      (answerWaitEnds s).res.cmd = (if s.relay s.drv.lastChannel then .on else .off) ∧
      (answerWaitEnds s).drv = s.drv) ∧
    (s.relay s.drv.lastChannel = want →
      dispatchRetries want true
        { cmd := (answerWaitEnds s).res.cmd, err := (answerWaitEnds s).res.err, val := (answerWaitEnds s).res.val } =
        decide ((answerWaitEnds s).res.err ≠ .no))

/-! ## INIT and the helpers -/

/-- INIT with the answer wait 0: a CHECK to every channel from 1 to N in order, each of which ends with an error and is counted, so
that `init_errs = N`; no `relayState` register changes, `lastChannel = N`, and nothing else changed
(43_protocol_driver.md R228, R217, R220 L8 to L12). That `init_ch` keeps the value N after INIT is the model's reading
(log entry 17). -/
def Obligations.InitWithoutWait : Prop :=
  ∀ (s u : State) (n : Byte), s.cfg.legal → s.lnk.link = .opened → s.csr.waitHi = 0#8 → s.csr.waitLo = 0#8 →
    s.tx.txq.length ≤ s.cfg.cap → n.toNat = s.cfg.channels →
    u = (List.range s.cfg.channels).foldl (fun v k => v.sentFor .check (BitVec.ofNat 8 (k + 1))) s →
    u.drv = { relayState := s.drv.relayState, lastChannel := n } ∧
    exec .init s = .next (State.finish (OpResult.value (BitVec.ofNat 16 s.cfg.channels))
      { u with sqr := { s.sqr with initActive := false, initCh := n, initErrs := n } })

/-- INIT takes the channels in turn (43_protocol_driver.md R228 I2 to I6; R220; 10_state.md R28). With a wait and room for the frame the
CHECK of channel 1 is sent and waited for. At each channel the loop sends the CHECK; where the frame is not handed over whole (NOSEND)
or the wait is 0 (NORECV) the error is counted and the loop goes on at once; else it waits. After the last channel INIT ends with the
count. The value `init_ch` keeps then is the model's reading (log entry 17). -/
def Obligations.InitTakesChannelsInTurn : Prop :=
  (∀ s : State, s.cfg.legal → s.lnk.link = .opened → s.roomForFrame →
    256 * s.csr.waitHi.toNat + s.csr.waitLo.toNat ≠ 0 →
    exec .init s = .next
      { s.sentFor .check 1#8 with
        sqr := { s.sqr with
          seq := .sendWait
          timer := (256 * s.csr.waitHi.toNat + s.csr.waitLo.toNat) * (s.cfg.clkHz / 1000)
          initActive := true
          initCh := 1#8
          initErrs := 0#8 } }) ∧
  (∀ s : State, s.lnk.link = .opened →
    exec .init s = .next
      (initLoop s.cfg.channels { s with sqr := { s.sqr with initActive := true, initCh := 0#8, initErrs := 0#8 } })) ∧
  (∀ (s : State) (ch : Byte) (n w : Nat), s.cfg.legal → s.tx.txq.length ≤ s.cfg.cap → ch = s.sqr.initCh + 1#8 → 1 ≤ ch.toNat →
    ch.toNat ≤ s.cfg.channels → w = 256 * s.csr.waitHi.toNat + s.csr.waitLo.toNat →
    initLoop (n + 1) s =
      if s.roomForFrame ∧ w ≠ 0 then
        { s.sentFor .check ch with
          sqr := { s.sqr with seq := .sendWait, timer := w * (s.cfg.clkHz / 1000), initCh := ch } }
      else
        initLoop n
          { s.sentFor .check ch with sqr := { s.sqr with initCh := ch, initErrs := s.sqr.initErrs + 1#8 } }) ∧
  (∀ s : State,
    initLoop 0 s = State.finish (OpResult.value (BitVec.ofNat 16 s.sqr.initErrs.toNat))
      { s with sqr := { s.sqr with initActive := false } })

/-- INIT's last channel: at the end of its wait, which `waitEnds` and the sequencer's clock cycle at `timer` 1 bring (10_state.md R26),
RECV runs, an outcome other than NO is counted and INIT ends with the count, whatever came in; what RECV did to the queues and to
`relayState` stands (43_protocol_driver.md R228 I4 to I6). The 0 in `timer` and the value `init_ch` keeps are the model's (log entries 4
and 17). -/
def Obligations.InitLastChannelEnds : Prop :=
  ∀ s : State, s.sqr.seq = .sendWait → s.sqr.initActive = true → s.sqr.initCh.toNat = s.cfg.channels →
    (waitEnds s = answerWaitEnds s ∧ ∀ d : Bool, s.sqr.timer = 1 → seqClock d s = answerWaitEnds s) ∧
    (answerWaitEnds s).sqr.seq = .idle ∧ (answerWaitEnds s).sqr.initActive = false ∧
    (answerWaitEnds s).sqr.initErrs =
      (if (recvFrom { s with sqr := { s.sqr with seq := .idle, timer := 0 } }).2.err = .no then s.sqr.initErrs
        else s.sqr.initErrs + 1#8) ∧
    (answerWaitEnds s).res =
      { valid := true, cmd := .none, err := .no, val := BitVec.ofNat 16 (answerWaitEnds s).sqr.initErrs.toNat } ∧
    (∀ (t : State) (e : Byte), s.lnk.link = .opened →
      exec .recv { s with sqr := { s.sqr with seq := .idle, timer := 0 } } = .next t →
      e = (if t.res.err = .no then s.sqr.initErrs else s.sqr.initErrs + 1#8) →
      answerWaitEnds s =
        { t with
          sqr := { t.sqr with initActive := false, initErrs := e }
          res := { valid := true, cmd := .none, err := .no, val := BitVec.ofNat 16 e.toNat } })

/-- INIT's other channels: at the end of the wait, which `waitEnds` and the sequencer's clock cycle at `timer` 1 bring (10_state.md
R26), RECV runs, its outcome is counted unless it is NO, and the next channel's CHECK is sent; with a wait and room for the frame it is
waited for, else its error is counted too and the loop goes on. What RECV did to the receive queues and to `relayState` stands
(43_protocol_driver.md R228 I3 to I5; 10_state.md R28). The 0 in `timer` is the model's choice (log entry 4). -/
def Obligations.InitGoesOnToNextChannel : Prop :=
  ∀ (s t : State) (ch e : Byte) (w : Nat), s.Inv → s.sqr.seq = .sendWait → s.sqr.initActive = true →
    s.sqr.initCh.toNat < s.cfg.channels →
    exec .recv { s with sqr := { s.sqr with seq := .idle, timer := 0 } } = .next t →
    ch = s.sqr.initCh + 1#8 → e = (if t.res.err = .no then s.sqr.initErrs else s.sqr.initErrs + 1#8) →
    w = 256 * s.csr.waitHi.toNat + s.csr.waitLo.toNat →
    (waitEnds s = answerWaitEnds s ∧ ∀ d : Bool, s.sqr.timer = 1 → seqClock d s = answerWaitEnds s) ∧
    (s.roomForFrame → w ≠ 0 →
      answerWaitEnds s =
        { t.sentFor .check ch with
          sqr := { s.sqr with seq := .sendWait, timer := w * (s.cfg.clkHz / 1000), initCh := ch, initErrs := e }
          res := s.res }) ∧
    (¬ s.roomForFrame ∨ w = 0 →
      answerWaitEnds s = initLoop (s.cfg.channels - ch.toNat)
        { t.sentFor .check ch with
          sqr := { s.sqr with seq := .idle, timer := 0, initCh := ch, initErrs := e + 1#8 }
          res := s.res })

/-- RDSTATE (43_protocol_driver.md R229; 60_exceptions.md R273). -/
def Obligations.RdstateReads : Prop :=
  ∀ (s : State) (ch : Byte),
    (s.lnk.link = .fatal → exec (.rdstate ch) s = .next (s.raise .badState)) ∧
    (s.lnk.link ≠ .fatal → ch.toNat < 1 ∨ s.cfg.channels < ch.toNat →
      exec (.rdstate ch) s = .next (s.raise .invChan)) ∧
    (s.lnk.link ≠ .fatal → 1 ≤ ch.toNat → ch.toNat ≤ s.cfg.channels →
      exec (.rdstate ch) s = .next (s.finish (OpResult.value
        (if s.drv.relayState.getD (ch.toNat - 1) false then 1#16 else 0#16))))

/-- COMPOSE (43_protocol_driver.md R230). -/
def Obligations.ComposeTable : Prop :=
  ∀ s : State, s.lnk.link ≠ .fatal →
    exec (.compose false false) s = .next (s.finish { cmd := .off, err := .no, val := 0#16 }) ∧
    exec (.compose true false) s = .next (s.finish { cmd := .on, err := .no, val := 1#16 }) ∧
    exec (.compose false true) s = .next (s.finish { cmd := .offCheck, err := .no, val := 2#16 }) ∧
    exec (.compose true true) s = .next (s.finish { cmd := .onCheck, err := .no, val := 3#16 })

/-- CMD2BOOL (43_protocol_driver.md R231; 60_exceptions.md R273). -/
def Obligations.Cmd2boolOutcome : Prop :=
  ∀ (s : State) (cmd : BitVec 4),
    (s.lnk.link = .fatal → exec (.cmd2bool cmd) s = .next (s.raise .badState)) ∧
    (s.lnk.link ≠ .fatal → cmd = 1#4 → exec (.cmd2bool cmd) s = .next (s.finish (OpResult.value 1#16))) ∧
    (s.lnk.link ≠ .fatal → cmd = 0#4 → exec (.cmd2bool cmd) s = .next (s.finish (OpResult.value 0#16))) ∧
    (s.lnk.link ≠ .fatal → 2 ≤ cmd.toNat → exec (.cmd2bool cmd) s = .next (s.enterFatal .badBool))

/-! ## A step -/

/-- A step runs the decoded instruction: the word taken and latched, `exec` of the instruction, and, when a host operation has got
its result, the record of it (10_state.md R25, R51; a relay frame alone: log entry 7). A number that selects no row is refused as a
command frame and judged by RECV's checks as a feedback frame (log entry 7). While `seq` is not IDLE the port is not ready and no word
is taken (R25, R29; log entry 13). -/
def Obligations.StepRunsDecodedInstruction : Prop :=
  (∀ (s t : State) (w : HostWord) (rest : List Input) (i : Instr),
    s.env.schedule = .present (.hostCmd w) :: rest → s.sqr.seq = .idle → decode (.hostCmd w) = .ok i →
    exec i { s with
        env := { s.env with schedule := rest }
        sqr := { s.sqr with pendOp := w }
        res := { s.res with valid := false } } = .next t →
    step s = .next (
      if t.res.valid then
        { t with
          hist := { t.hist with
            opLog := t.hist.opLog ++ [{ op := t.sqr.pendOp, cmd := t.res.cmd, err := t.res.err, val := t.res.val }] } }
      else t)) ∧
  (∀ (s t : State) (d : Direction) (w : FrameWord) (rest : List Input) (i : Instr),
    s.env.schedule = .present (.relayFrame d w) :: rest → s.sqr.seq = .idle → decode (.relayFrame d w) = .ok i →
    exec i { s with
        env := { s.env with schedule := rest }
        res := { s.res with valid := false } } = .next t →
    step s = .next t) ∧
  (∀ (s : State) (d : Direction) (w : FrameWord) (rest : List Input) (e : DecodeError),
    s.env.schedule = .present (.relayFrame d w) :: rest → s.sqr.seq = .idle → decode (.relayFrame d w) = .error e →
    (d = .toRelay → step s = .refused .notCommandFrame) ∧
    (d = .fromRelay → step s = .next (feedbackFrameOp (Frame.ofWord w)
      { s with
        env := { s.env with schedule := rest }
        res := { s.res with valid := false } }))) ∧
  (∀ (s : State) (c : CodeWord) (rest : List Input), s.sqr.seq ≠ .idle → s.env.schedule = .present c :: rest →
    s.hcReady = false ∧ step s = .next { s with env := { s.env with schedule := rest } })

/-- A step of another agent is that agent's own step (00_scope.md R8; 41_line_engine.md R161, R163). -/
def Obligations.StepRunsAgents : Prop :=
  ∀ (s : State) (n : Input) (rest : List Input) (u : State), s.env.schedule = n :: rest →
    u = { s with env := { s.env with schedule := rest } } →
    (n = .txClk → step s = .next (txClock u)) ∧
    (∀ x, n = .rxClk x → step s = .next (rxClock x u)) ∧
    (n = .txStart → step s = .next (txStartStep u)) ∧
    (n = .txDone → step s = .next (txDoneStep u)) ∧
    (∀ b g, n = .deliver b g → step s = .next (deliverByte b g u)) ∧
    (∀ d, n = .seqClk d → step s = .next (u.logResult (seqClock d u))) ∧
    (n = .waitEnd → step s = .next (u.logResult (waitEnds u)))

/-- In a weakly fair run every operation ends, so the open retry delay and the answer wait do, and what is staged for the line leaves
it (70_reset_and_hazards.md R318; 10_state.md R26). Which steps a fair run owes is the model's reading: those of the sequencer and of
the two line agents, no delivery that has not begun (log entry 25). -/
def Obligations.FairRunsEndOperations : Prop :=
  ∀ (inputs : Nat → Input) (states : Nat → State), isRun inputs states → weaklyFair inputs states →
    ((states 0).Inv → (states 0).attemptsBounded → ∀ k, ∃ m ≥ k, (states m).sqr.seq = .idle) ∧
    (∀ k, (∀ m ≥ k, (states m).lnk.link = .opened) → (states k).tx.txSh ≠ .idle ∨ (states k).tx.txStage ≠ [] →
      ∃ m ≥ k, (states k).hist.lineOut.length < (states m).hist.lineOut.length)

/-- Reset gives every item of state its reset value; the parameters and the inputs still to come stay
(70_reset_and_hazards.md R300, R302; log entry 20). -/
def Obligations.ResetRestoresEverything : Prop :=
  ∀ (s : State) (rest : List Input), s.env.schedule = .reset :: rest →
    step s = .next { State.resetWith s.cfg with env := { s.env with schedule := rest } }

/-- The state after reset, for every choice of parameters: the values the spec gives (70_reset_and_hazards.md R301; 10_state.md R52). -/
def Obligations.ResetValues : Prop :=
  ∀ c : Config,
    let s := State.resetWith c
    s.sqr.seq = .idle ∧ s.lnk.link = .closed ∧ s.tx.txq = [] ∧ s.rx.rxq = [] ∧ s.tx.txStage = [] ∧ s.rx.rxStage = [] ∧
    s.tx.txSh = .idle ∧ s.rx.rxSh = .idle ∧ s.txd = true ∧
    s.drv.relayState.length = c.channels ∧ (∀ ch : Byte, s.relay ch = false) ∧ s.drv.lastChannel = 0#8 ∧
    256 * s.csr.waitHi.toNat + s.csr.waitLo.toNat = 0 ∧ s.csr.baudSel = 3#8 ∧ s.csr.lineFmt = 0x03#8 ∧
    s.csr.maxAttempts = 1#8 ∧ s.lnk.statusByte = 0x00#8 ∧ s.res.valid = false ∧ s.res.cmd = .none ∧ s.res.err = .no ∧
    s.res.val = 0#16 ∧ s.sqr.initErrs = 0#8 ∧ s.sqr.initActive = false ∧ s.sqr.initCh = 0#8 ∧ s.sqr.attempts = 0#8 ∧
    s.hist.lineOut = [] ∧ s.hist.lineIn = []

/-! ## Invariants of every step -/

/-- The bounds of the queues and registers, `timer`'s width among them, and the sequencer's agreement with the link and with INIT, are
kept by every step (20_memory.md R77; 10_state.md R24, R26, R27, R41). -/
def Obligations.StepKeepsInvariant : Prop :=
  ∀ s t : State, s.Inv → step s = .next t → t.Inv

/-- The invariants hold after reset, for every legal choice of parameters (10_state.md R52). -/
def Obligations.InvariantsAtReset : Prop :=
  ∀ c : Config, c.legal →
    let s := State.resetWith c
    s.Inv ∧ s.rxFits ∧ s.txOrder ∧ s.rxOrder ∧ s.rxCount ∧ s.csrLegal ∧ s.attemptsBounded ∧ s.quietUntilOpen ∧ s.causeAgrees ∧
      resultLawful s.res.cmd s.res.err s.res.val

/-- Transmit order: no accepted byte is lost, duplicated or reordered (20_memory.md R70). -/
def Obligations.StepKeepsTransmitOrder : Prop :=
  ∀ s t : State, s.txOrder → step s = .next t → t.txOrder

/-- Receive order and conservation (20_memory.md R71; 40_transport_ops.md R140). -/
def Obligations.StepKeepsReceiveOrder : Prop :=
  ∀ s t : State, s.rxOrder ∧ s.rxCount → step s = .next t → t.rxOrder ∧ t.rxCount

/-- The static parameters never change, and OVERRUN and LINE_ERR are cleared by nothing but reset (00_scope.md R6;
60_exceptions.md R278). -/
def Obligations.ParametersAndStickyFlags : Prop :=
  ∀ s t : State, step s = .next t →
    t.cfg = s.cfg ∧
    (s.nextInput ≠ .reset →
      (s.lnk.overrun = true → t.lnk.overrun = true) ∧ (s.lnk.lineErr = true → t.lnk.lineErr = true))

/-- In the fatal state nothing but the port's registers can change until reset (60_exceptions.md R272). -/
def Obligations.FatalIsSticky : Prop :=
  ∀ s t : State, s.lnk.link = .fatal → s.sqr.seq = .idle → s.nextInput ≠ .reset → step s = .next t →
    t.lnk = s.lnk ∧ t.drv = s.drv ∧ t.csr = s.csr ∧ t.tx = s.tx ∧ t.rx = s.rx ∧
    t.sqr = { s.sqr with pendOp := t.sqr.pendOp } ∧ t.hist = { s.hist with opLog := t.hist.opLog }

/-- The general law of the result registers (30_encoding.md R103). -/
def Obligations.StepKeepsResultLaw : Prop :=
  ∀ s t : State, resultLawful s.res.cmd s.res.err s.res.val → step s = .next t →
    resultLawful t.res.cmd t.res.err t.res.val

/-- Reserved values never enter the line parameters, which are frozen while the link is not CLOSED (10_state.md R30 to R33); so what has
been received fits the line format's data bits (70_reset_and_hazards.md R320). -/
def Obligations.LineParametersLegalAndFrozen : Prop :=
  ∀ s t : State, step s = .next t →
    (s.csrLegal → t.csrLegal) ∧
    (s.lnk.link ≠ .closed → s.nextInput ≠ .reset →
      t.csr.baudSel = s.csr.baudSel ∧ t.csr.lineFmt = s.csr.lineFmt ∧ t.csr.maxAttempts = s.csr.maxAttempts) ∧
    (s.quietUntilOpen → s.rxFits → t.rxFits)

/-- Until the link has been OPEN the queues stay empty and the shifters idle (41_line_engine.md R162). -/
def Obligations.StepKeepsQuietUntilOpen : Prop :=
  ∀ s t : State, s.sequencerAgrees → s.quietUntilOpen → step s = .next t → t.quietUntilOpen

/-- The link changes only as its table says, FCAUSE tells FATAL from the rest, and an OPEN makes at most `MAX_ATTEMPTS` attempts
(10_state.md R41, R35; 40_transport_ops.md R130). -/
def Obligations.LinkChangesOnlyAsListed : Prop :=
  ∀ s t : State, s.sequencerAgrees → s.causeAgrees → s.attemptsBounded → step s = .next t →
    t.causeAgrees ∧ t.attemptsBounded ∧
    (s.nextInput ≠ .reset → linkMayBecome s.lnk.link t.lnk.link = true) ∧
    (s.nextInput = .reset → t.lnk.link = .closed)

/-- `rxq` holds at most 3 bytes when an operation starts, as long as no raw POLL is issued (20_memory.md R79). -/
def Obligations.ReceiveQueueStaysShort : Prop :=
  ∀ s t : State, s.rx.rxq.length ≤ 3 → step s = .next t →
    (∀ w : HostWord, s.nextInput = .present (.hostCmd w) → w.toNat / 4096 ≠ 5) → t.rx.rxq.length ≤ 3

/-- The driver's registers are written by the protocol driver only: by no Transport operation (the later steps of an OPEN among them),
no helper and no line agent, but by a word that may write them, by the end of an answer wait, and by reset (10_state.md R21, R22). The
clauses on relay frames run alone rest on the model's choice (log entry 7). -/
def Obligations.DriverWrittenOnlyByDriver : Prop :=
  (∀ (i : Instr) (s t : State), mayWriteDriver i = false → exec i s = .next t → t.drv = s.drv) ∧
  (∀ (s : State) (b : Byte) (x : Bool),
    (txClock s).drv = s.drv ∧ (rxClock x s).drv = s.drv ∧ (txStartStep s).drv = s.drv ∧ (txDoneStep s).drv = s.drv ∧
    (deliverByte b x s).drv = s.drv) ∧
  (∀ s t : State, step s = .next t → s.nextInput ≠ .reset →
    (∀ (c : CodeWord) (i : Instr), s.nextInput = .present c → decode c = .ok i → mayWriteDriver i = false) →
    (s.sqr.seq = .sendWait → s.nextInput ≠ .waitEnd ∧ ∀ d : Bool, s.nextInput ≠ .seqClk d) → t.drv = s.drv)

/-! ## Waits and the line -/

/-- A wait lasts exactly as many clock cycles of the sequencer as `timer` was loaded with, and ends as its untimed end does; outside
a waiting state there is no wait to end, and an idle sequencer does nothing (10_state.md R26, R24). -/
def Obligations.WaitsLastExactly : Prop :=
  (∀ (s : State) (n : Nat) (ds : List Bool), s.sqr.seq = .sendWait ∨ s.sqr.seq = .openDelay → s.sqr.timer = n + 1 →
    (ds.length ≤ n → ds.foldl (fun u d => seqClock d u) s = { s with sqr := { s.sqr with timer := n + 1 - ds.length } }) ∧
    (ds.length = n + 1 →
      ds.foldl (fun u d => seqClock d u) s = waitEnds { s with sqr := { s.sqr with timer := 1 } })) ∧
  (∀ (s : State) (d : Bool),
    (s.sqr.seq = .idle → seqClock d s = s ∧ waitEnds s = s) ∧ (s.sqr.seq = .openTry → waitEnds s = s) ∧
    (s.sqr.seq = .sendWait → waitEnds s = answerWaitEnds s))

/-- `DIV` is at least 16 at every rate and clock, and has the values of the table at 16 MHz (41_line_engine.md R173). -/
def Obligations.DivisorValues : Prop :=
  (∀ (c : Config) (v : Byte), c.legal → 16 ≤ divisor c.clkHz (baudRate v)) ∧
  (List.range 8).map (fun n => divisor 16000000 (baudRate (BitVec.ofNat 8 n))) =
    [13333, 6667, 3333, 1667, 833, 417, 278, 139]

/-- A character is on `txd` for exactly `L * DIV` cycles, each bit for `DIV`, then TxDone and the next TxStart in the same cycle
(41_line_engine.md R164, R165). -/
def Obligations.CharacterTiming : Prop :=
  ∀ (s : State) (b : Byte) (rest : List Byte) (c : List Bool) (d : Nat),
    s.cfg.legal → s.lnk.link = .opened → s.tx.txSh = .idle → s.tx.txStage = b :: rest →
    c = charBits s.csr.lineFmt b → d = s.bitCycles →
    (∀ j < c.length * d,
      (txClock^[j + 1] s).txd = c.getD (j / d) true ∧ (txClock^[j + 1] s).hist.lineOut = s.hist.lineOut ∧
      (txClock^[j + 1] s).tx.txStage = rest) ∧
    (txClock^[c.length * d + 1] s).hist.lineOut = s.hist.lineOut ++ [b] ∧
    (rest = [] → (txClock^[c.length * d + 1] s).tx.txSh = .idle) ∧
    (∀ (b' : Byte) (rest' : List Byte), rest = b' :: rest' →
      (txClock^[c.length * d + 1] s).tx =
        { s.tx with txStage := rest', txSh := .busy b' (charBits s.csr.lineFmt b') 0 d })

/-- The character on the line, bit by bit, and read back (30_encoding.md R105, R106; 20_memory.md R63; 41_line_engine.md R169, R170).
Sent: the start bit 0, the data bits least significant first, the parity bit that makes the ones odd (`PAR` 1) or even (`PAR` 2) in
number, stop bits 1. Received: bit `j` of the byte is the `j`-th bit sampled after the start bit, the bits above the data bits are 0,
and the character is good exactly when its parity bit is the computed one and its stop bits are 1. A byte sent and read back is good,
with the untransmitted bits cleared. -/
def Obligations.CharacterReadsBack : Prop :=
  ∀ (fmt : Byte) (n p : Nat), lineFmtLegal fmt = true → n = 5 + fmt.toNat % 4 → p = (if fmt.toNat / 4 % 4 = 0 then 0 else 1) →
    charLength fmt = 2 + n + p + fmt.toNat / 16 % 2 ∧
    (∀ b : Byte,
      (charBits fmt b).length = charLength fmt ∧ (charBits fmt b).head? = some false ∧
      (∀ j < n, (charBits fmt b)[j + 1]? = some (b.getLsbD j)) ∧
      (fmt.toNat / 4 % 4 = 1 →
        (charBits fmt b)[n + 1]? = some (decide ((List.range n).countP (fun j => b.getLsbD j) % 2 = 0))) ∧
      (fmt.toNat / 4 % 4 = 2 →
        (charBits fmt b)[n + 1]? = some (decide ((List.range n).countP (fun j => b.getLsbD j) % 2 = 1))) ∧
      (∀ j, n + 1 + p ≤ j → j < charLength fmt → (charBits fmt b)[j]? = some true) ∧
      charGood fmt ((charBits fmt b).drop 1) = true ∧
      byteOfBits (sampledData fmt ((charBits fmt b).drop 1)) = BitVec.ofNat 8 (b.toNat % 2 ^ n)) ∧
    (∀ bits : List Bool, bits.length + 1 = charLength fmt →
      (∀ j < 8, (byteOfBits (sampledData fmt bits)).getLsbD j = (decide (j < n) && bits.getD j false)) ∧
      (charGood fmt bits = true ↔
        (fmt.toNat / 4 % 4 = 1 → bits.getD n false = decide ((bits.take n).countP (fun x => x) % 2 = 0)) ∧
        (fmt.toNat / 4 % 4 = 2 → bits.getD n false = decide ((bits.take n).countP (fun x => x) % 2 = 1)) ∧
        (∀ j, n + p ≤ j → j < bits.length → bits.getD j false = true)))

/-- The receiver at the bit level does what `Deliver` does at the byte level (41_line_engine.md R168 to R171, R167). From an idle
receiver on an idle line: the waveform of any character, good or bad, each bit for `DIV` cycles, delivers its byte as good or as bad
(a bad one is not staged and sets LINE_ERR) and leaves the receiver idle; a low level of at most `DIV div 2` cycles is a glitch, after
which nothing has changed; and the waveform a byte is sent as delivers that byte. The levels that stand in the sample flops before are
a premise, since their start values are the model's choice (log entry 5). That a character is judged after its last stop bit is the
model's reading (log entry 16). -/
def Obligations.ReceiverFollowsWaveform : Prop :=
  ∀ s : State, s.cfg.legal → s.csrLegal → s.lnk.link = .opened → s.rx.rxSh = .idle →
    s.rx.rxPrev = true → s.rx.rxSync1 = true → s.rx.rxSync2 = true →
    (∀ (c : List Bool) (l : Bool) (u : State), c.length = charLength s.csr.lineFmt → c.head? = some false →
      c.getLast? = some l →
      u = deliverByte (byteOfBits ((c.drop 1).take (dataBits s.csr.lineFmt))) (charGood s.csr.lineFmt (c.drop 1)) s →
      (c.flatMap (List.replicate s.bitCycles)).foldl (fun v x => rxClock x v) s =
        { u with rx := { u.rx with rxPrev := l, rxSync1 := l, rxSync2 := l } }) ∧
    (∀ g h : Nat, g ≤ s.bitCycles / 2 → s.bitCycles / 2 + 3 ≤ g + h →
      (List.replicate g false ++ List.replicate h true).foldl (fun v x => rxClock x v) s = s) ∧
    (∀ b : Byte,
      ((charBits s.csr.lineFmt b).flatMap (List.replicate s.bitCycles)).foldl (fun v x => rxClock x v) s =
        deliverByte (BitVec.ofNat 8 (b.toNat % 2 ^ (dataBits s.csr.lineFmt))) true s)

/-- Staging, as whole states: `rx_stage` holds the newest bytes, a full one loses its oldest byte and sets OVERRUN (41_line_engine.md
R171, R167); what is staged is the byte's data bits (R169; 70_reset_and_hazards.md R320); a bad character changes nothing but LINE_ERR
and `line_in`. That the byte of a bad character enters `line_in`, and any byte whole, is the model's reading of R161 (log entry 15);
`accepted` and `lost` are the model's own histories (log entry 18). -/
def Obligations.OverrunKeepsNewest : Prop :=
  ∀ (s : State) (b x : Byte), s.lnk.link = .opened → x = BitVec.ofNat 8 (b.toNat % 2 ^ (5 + s.csr.lineFmt.toNat % 4)) →
    (s.csr.lineFmt.toNat % 4 = 3 → x = b) ∧
    (s.rx.rxStage.length < s.cfg.rxsDepth →
      deliverByte b true s =
        { s with
          rx := { s.rx with rxStage := s.rx.rxStage ++ [x] }
          hist := { s.hist with lineIn := s.hist.lineIn ++ [b], accepted := s.hist.accepted ++ [x] } }) ∧
    (∀ (old : Byte) (rest : List Byte), s.rx.rxStage = old :: rest → s.rx.rxStage.length = s.cfg.rxsDepth →
      deliverByte b true s =
        { s with
          rx := { s.rx with rxStage := rest ++ [x] }
          lnk := { s.lnk with overrun := true }
          hist := { s.hist with
            lineIn := s.hist.lineIn ++ [b]
            accepted := s.hist.accepted ++ [x]
            lost := s.hist.lost ++ [old] } }) ∧
    deliverByte b false s =
      { s with
        lnk := { s.lnk with lineErr := true }
        hist := { s.hist with lineIn := s.hist.lineIn ++ [b] } }

/-- The line is 1 whenever the shifter is idle or the link is not OPEN, and there the line agents do nothing; TxStart and TxDone at the
byte level (41_line_engine.md R166, R162, R163). That the receiver's sample flops stand still there is the model's choice
(log entry 5). -/
def Obligations.LineQuietUnlessOpen : Prop :=
  ∀ (s : State) (b : Byte) (x : Bool),
    (s.tx.txSh = .idle ∨ s.lnk.link ≠ .opened → s.txd = true) ∧
    (s.lnk.link ≠ .opened →
      txClock s = s ∧ rxClock x s = s ∧ txStartStep s = s ∧ txDoneStep s = s ∧ deliverByte b x s = s) ∧
    (∀ rest : List Byte, s.lnk.link = .opened → s.tx.txSh = .idle → s.tx.txStage = b :: rest →
      txStartStep s =
        { s with tx := { s.tx with txStage := rest, txSh := .busy b (charBits s.csr.lineFmt b) 0 s.bitCycles } }) ∧
    (∀ (c : List Bool) (k p : Nat), s.lnk.link = .opened → s.tx.txSh = .busy b c k p →
      txDoneStep s =
        { s with
          tx := { s.tx with txSh := .idle }
          hist := { s.hist with lineOut := s.hist.lineOut ++ [b] } })

/-- Reception does not depend on the sequencer (41_line_engine.md R172). -/
def Obligations.ReceptionIgnoresSequencer : Prop :=
  ∀ (s : State) (q : Sequencer) (b : Byte) (x : Bool),
    rxClock x { s with sqr := q } = { rxClock x s with sqr := q } ∧
    deliverByte b x { s with sqr := q } = { deliverByte b x s with sqr := q }

/-- The register-level queue is the bounded list queue: enqueue appends or rejects, dequeue takes the oldest or fails, a drained buffer
has its indices at 0, and an empty buffer is the empty queue whatever its store holds (20_memory.md R76; 10_state.md R43). -/
def Obligations.RingRefinesQueue : Prop :=
  (∀ store : List Byte, store ≠ [] → (Ring.emptyOver store).wf ∧ (Ring.emptyOver store).contents = []) ∧
  (∀ (r : Ring) (b : Byte), r.wf →
    r.contents.length ≤ r.store.length ∧
    (r.contents.length < r.store.length →
      (r.enqueue b).2 = true ∧ (r.enqueue b).1.contents = r.contents ++ [b]) ∧
    (r.contents.length = r.store.length → r.enqueue b = (r, false)) ∧
    (r.enqueue b).1.wf ∧ (r.enqueue b).1.store.length = r.store.length ∧
    (r.contents = [] → r.dequeue = (r, none)) ∧
    (∀ (x : Byte) (rest : List Byte), r.contents = x :: rest →
      r.dequeue.2 = some x ∧ r.dequeue.1.contents = rest ∧ (rest = [] → r.dequeue.1.rd = 0 ∧ r.dequeue.1.wr = 0)) ∧
    r.dequeue.1.wf ∧ r.dequeue.1.store.length = r.store.length)
end

