-- ==== Sys2Proof/Laws/Encoding.lean ====
section
/-!
SUPPORT. The small lemmas of the encoding: the fields of a host command word put together from its fields, and the bytes of a frame
shown as one number.
-/

namespace Sys2Proof

/-- Two bit vectors side by side, as a number. -/
theorem toNat_append_mul {m n : Nat} (x : BitVec m) (y : BitVec n) : (x ++ y).toNat = 2 ^ n * x.toNat + y.toNat := by
  rw [BitVec.toNat_append, ← Nat.shiftLeft_add_eq_or_of_lt y.isLt, Nat.shiftLeft_eq, Nat.mul_comm]

/-- A host command word has its fields (30_encoding.md R101). -/
theorem hostWord_toNat (op a : BitVec 4) (d : Byte) :
    (hostWord op a d).toNat = 4096 * op.toNat + 256 * a.toNat + d.toNat := by
  have h : (hostWord op a d).toNat = 2 ^ 8 * (op ++ a).toNat + d.toNat := toNat_append_mul (op ++ a) d
  rw [h, toNat_append_mul]
  omega

@[simp] theorem opField_hostWord (op a : BitVec 4) (d : Byte) : opField (hostWord op a d) = op := by
  apply BitVec.eq_of_toNat_eq
  have := hostWord_toNat op a d
  simp only [opField, BitVec.extractLsb'_toNat, Nat.shiftRight_eq_div_pow]
  omega

@[simp] theorem aField_hostWord (op a : BitVec 4) (d : Byte) : aField (hostWord op a d) = a := by
  apply BitVec.eq_of_toNat_eq
  have := hostWord_toNat op a d
  simp only [aField, BitVec.extractLsb'_toNat, Nat.shiftRight_eq_div_pow]
  omega

@[simp] theorem dField_hostWord (op a : BitVec 4) (d : Byte) : dField (hostWord op a d) = d := by
  apply BitVec.eq_of_toNat_eq
  have := hostWord_toNat op a d
  simp only [dField, BitVec.extractLsb'_toNat, Nat.shiftRight_eq_div_pow]
  omega

/-- A frame's number has the frame's bytes (00_scope.md R9). -/
theorem frame_toWord_toNat (f : Frame) :
    f.toWord.toNat = 16777216 * f.f0.toNat + 65536 * f.f1.toNat + 256 * f.f2.toNat + f.f3.toNat := by
  have h : f.toWord.toNat = 2 ^ 8 * (f.f0 ++ f.f1 ++ f.f2).toNat + f.f3.toNat := toNat_append_mul (f.f0 ++ f.f1 ++ f.f2) f.f3
  rw [h, toNat_append_mul, toNat_append_mul]
  omega

@[simp] theorem frame_ofWord_toWord (f : Frame) : Frame.ofWord f.toWord = f := by
  have h := frame_toWord_toNat f
  obtain ⟨a, b, c, d⟩ := f
  dsimp only at h
  simp only [Frame.ofWord, Frame.mk.injEq]
  refine ⟨?_, ?_, ?_, ?_⟩ <;> apply BitVec.eq_of_toNat_eq <;>
    simp only [BitVec.extractLsb'_toNat, Nat.shiftRight_eq_div_pow] <;> omega

@[simp] theorem frame_toWord_ofWord (w : FrameWord) : (Frame.ofWord w).toWord = w := by
  apply BitVec.eq_of_toNat_eq
  have hw := w.isLt
  rw [frame_toWord_toNat]
  simp only [Frame.ofWord, BitVec.extractLsb'_toNat, Nat.shiftRight_eq_div_pow]
  omega

/-- A frame selects a row exactly when it has the row's marker and code and its own checksum (30_encoding.md R109). -/
theorem requireChecksum_ok_iff (f : Frame) (r : Except DecodeError Instr) (i : Instr) :
    requireChecksum f r = .ok i ↔ r = .ok i ∧ f.valid = true := by
  cases r <;> simp [requireChecksum]
  split <;> simp_all

end Sys2Proof
end

