-- ==== Sys2Proof/Laws/State.lean ====
section
/-!
SUPPORT. The small lemmas of State: for every named update, what each field is after it. All are true by rfl and in the simp set, so
that no proof unfolds an update.
-/

namespace Sys2Proof.Machine

/-! ## finish -/

@[simp] theorem finish_cfg (r : OpResult) (s : State) : (s.finish r).cfg = s.cfg := rfl
@[simp] theorem finish_drv (r : OpResult) (s : State) : (s.finish r).drv = s.drv := rfl
@[simp] theorem finish_sqr (r : OpResult) (s : State) : (s.finish r).sqr = { s.sqr with seq := .idle } := rfl
@[simp] theorem finish_csr (r : OpResult) (s : State) : (s.finish r).csr = s.csr := rfl
@[simp] theorem finish_lnk (r : OpResult) (s : State) : (s.finish r).lnk = s.lnk := rfl
@[simp] theorem finish_tx (r : OpResult) (s : State) : (s.finish r).tx = s.tx := rfl
@[simp] theorem finish_rx (r : OpResult) (s : State) : (s.finish r).rx = s.rx := rfl
@[simp] theorem finish_res (r : OpResult) (s : State) :
    (s.finish r).res = { valid := true, cmd := r.cmd, err := r.err, val := r.val } := rfl
@[simp] theorem finish_hist (r : OpResult) (s : State) : (s.finish r).hist = s.hist := rfl
@[simp] theorem finish_env (r : OpResult) (s : State) : (s.finish r).env = s.env := rfl

/-! ## raise -/

@[simp] theorem raise_cfg (e : ErrCode) (s : State) : (s.raise e).cfg = s.cfg := rfl
@[simp] theorem raise_drv (e : ErrCode) (s : State) : (s.raise e).drv = s.drv := rfl
@[simp] theorem raise_sqr (e : ErrCode) (s : State) : (s.raise e).sqr = { s.sqr with seq := .idle } := rfl
@[simp] theorem raise_csr (e : ErrCode) (s : State) : (s.raise e).csr = s.csr := rfl
@[simp] theorem raise_lnk (e : ErrCode) (s : State) : (s.raise e).lnk = s.lnk := rfl
@[simp] theorem raise_tx (e : ErrCode) (s : State) : (s.raise e).tx = s.tx := rfl
@[simp] theorem raise_rx (e : ErrCode) (s : State) : (s.raise e).rx = s.rx := rfl
@[simp] theorem raise_res (e : ErrCode) (s : State) :
    (s.raise e).res = { valid := true, cmd := .error, err := e, val := 0#16 } := rfl
@[simp] theorem raise_hist (e : ErrCode) (s : State) : (s.raise e).hist = s.hist := rfl
@[simp] theorem raise_env (e : ErrCode) (s : State) : (s.raise e).env = s.env := rfl

/-! ## enterFatal -/

@[simp] theorem enterFatal_cfg (c : FCause) (s : State) : (s.enterFatal c).cfg = s.cfg := rfl
@[simp] theorem enterFatal_drv (c : FCause) (s : State) : (s.enterFatal c).drv = s.drv := rfl
@[simp] theorem enterFatal_sqr (c : FCause) (s : State) :
    (s.enterFatal c).sqr = { s.sqr with seq := .idle, initActive := false } := rfl
@[simp] theorem enterFatal_csr (c : FCause) (s : State) : (s.enterFatal c).csr = s.csr := rfl
@[simp] theorem enterFatal_lnk (c : FCause) (s : State) :
    (s.enterFatal c).lnk = { s.lnk with link := .fatal, fcause := c } := rfl
@[simp] theorem enterFatal_tx (c : FCause) (s : State) : (s.enterFatal c).tx = s.tx := rfl
@[simp] theorem enterFatal_rx (c : FCause) (s : State) : (s.enterFatal c).rx = s.rx := rfl
@[simp] theorem enterFatal_res (c : FCause) (s : State) :
    (s.enterFatal c).res = { valid := true, cmd := .error, err := .fatal, val := 0#16 } := rfl
@[simp] theorem enterFatal_hist (c : FCause) (s : State) : (s.enterFatal c).hist = s.hist := rfl
@[simp] theorem enterFatal_env (c : FCause) (s : State) : (s.enterFatal c).env = s.env := rfl

/-! ## accept -/

@[simp] theorem accept_cfg (w : HostWord) (s : State) : (s.accept w).cfg = s.cfg := rfl
@[simp] theorem accept_drv (w : HostWord) (s : State) : (s.accept w).drv = s.drv := rfl
@[simp] theorem accept_sqr (w : HostWord) (s : State) : (s.accept w).sqr = { s.sqr with pendOp := w } := rfl
@[simp] theorem accept_csr (w : HostWord) (s : State) : (s.accept w).csr = s.csr := rfl
@[simp] theorem accept_lnk (w : HostWord) (s : State) : (s.accept w).lnk = s.lnk := rfl
@[simp] theorem accept_tx (w : HostWord) (s : State) : (s.accept w).tx = s.tx := rfl
@[simp] theorem accept_rx (w : HostWord) (s : State) : (s.accept w).rx = s.rx := rfl
@[simp] theorem accept_res (w : HostWord) (s : State) : (s.accept w).res = { s.res with valid := false } := rfl
@[simp] theorem accept_hist (w : HostWord) (s : State) : (s.accept w).hist = s.hist := rfl
@[simp] theorem accept_env (w : HostWord) (s : State) : (s.accept w).env = s.env := rfl

/-! ## clearValid -/

@[simp] theorem clearValid_cfg (s : State) : (s.clearValid).cfg = s.cfg := rfl
@[simp] theorem clearValid_drv (s : State) : (s.clearValid).drv = s.drv := rfl
@[simp] theorem clearValid_sqr (s : State) : (s.clearValid).sqr = s.sqr := rfl
@[simp] theorem clearValid_csr (s : State) : (s.clearValid).csr = s.csr := rfl
@[simp] theorem clearValid_lnk (s : State) : (s.clearValid).lnk = s.lnk := rfl
@[simp] theorem clearValid_tx (s : State) : (s.clearValid).tx = s.tx := rfl
@[simp] theorem clearValid_rx (s : State) : (s.clearValid).rx = s.rx := rfl
@[simp] theorem clearValid_res (s : State) : (s.clearValid).res = { s.res with valid := false } := rfl
@[simp] theorem clearValid_hist (s : State) : (s.clearValid).hist = s.hist := rfl
@[simp] theorem clearValid_env (s : State) : (s.clearValid).env = s.env := rfl

/-! ## startWait -/

@[simp] theorem startWait_cfg (q : Seq) (n : Nat) (s : State) : (s.startWait q n).cfg = s.cfg := rfl
@[simp] theorem startWait_drv (q : Seq) (n : Nat) (s : State) : (s.startWait q n).drv = s.drv := rfl
@[simp] theorem startWait_sqr (q : Seq) (n : Nat) (s : State) :
    (s.startWait q n).sqr = { s.sqr with seq := q, timer := n } := rfl
@[simp] theorem startWait_csr (q : Seq) (n : Nat) (s : State) : (s.startWait q n).csr = s.csr := rfl
@[simp] theorem startWait_lnk (q : Seq) (n : Nat) (s : State) : (s.startWait q n).lnk = s.lnk := rfl
@[simp] theorem startWait_tx (q : Seq) (n : Nat) (s : State) : (s.startWait q n).tx = s.tx := rfl
@[simp] theorem startWait_rx (q : Seq) (n : Nat) (s : State) : (s.startWait q n).rx = s.rx := rfl
@[simp] theorem startWait_res (q : Seq) (n : Nat) (s : State) : (s.startWait q n).res = s.res := rfl
@[simp] theorem startWait_hist (q : Seq) (n : Nat) (s : State) : (s.startWait q n).hist = s.hist := rfl
@[simp] theorem startWait_env (q : Seq) (n : Nat) (s : State) : (s.startWait q n).env = s.env := rfl

/-! ## setRelay -/

@[simp] theorem setRelay_cfg (ch : Byte) (v : Bool) (s : State) : (s.setRelay ch v).cfg = s.cfg := rfl
@[simp] theorem setRelay_drv (ch : Byte) (v : Bool) (s : State) :
    (s.setRelay ch v).drv = { s.drv with relayState := if ch = 0#8 then s.drv.relayState else s.drv.relayState.set (ch.toNat - 1) v } := rfl
@[simp] theorem setRelay_sqr (ch : Byte) (v : Bool) (s : State) : (s.setRelay ch v).sqr = s.sqr := rfl
@[simp] theorem setRelay_csr (ch : Byte) (v : Bool) (s : State) : (s.setRelay ch v).csr = s.csr := rfl
@[simp] theorem setRelay_lnk (ch : Byte) (v : Bool) (s : State) : (s.setRelay ch v).lnk = s.lnk := rfl
@[simp] theorem setRelay_tx (ch : Byte) (v : Bool) (s : State) : (s.setRelay ch v).tx = s.tx := rfl
@[simp] theorem setRelay_rx (ch : Byte) (v : Bool) (s : State) : (s.setRelay ch v).rx = s.rx := rfl
@[simp] theorem setRelay_res (ch : Byte) (v : Bool) (s : State) : (s.setRelay ch v).res = s.res := rfl
@[simp] theorem setRelay_hist (ch : Byte) (v : Bool) (s : State) : (s.setRelay ch v).hist = s.hist := rfl
@[simp] theorem setRelay_env (ch : Byte) (v : Bool) (s : State) : (s.setRelay ch v).env = s.env := rfl

/-! ## setLastChannel -/

@[simp] theorem setLastChannel_cfg (ch : Byte) (s : State) : (s.setLastChannel ch).cfg = s.cfg := rfl
@[simp] theorem setLastChannel_drv (ch : Byte) (s : State) :
    (s.setLastChannel ch).drv = { s.drv with lastChannel := ch } := rfl
@[simp] theorem setLastChannel_sqr (ch : Byte) (s : State) : (s.setLastChannel ch).sqr = s.sqr := rfl
@[simp] theorem setLastChannel_csr (ch : Byte) (s : State) : (s.setLastChannel ch).csr = s.csr := rfl
@[simp] theorem setLastChannel_lnk (ch : Byte) (s : State) : (s.setLastChannel ch).lnk = s.lnk := rfl
@[simp] theorem setLastChannel_tx (ch : Byte) (s : State) : (s.setLastChannel ch).tx = s.tx := rfl
@[simp] theorem setLastChannel_rx (ch : Byte) (s : State) : (s.setLastChannel ch).rx = s.rx := rfl
@[simp] theorem setLastChannel_res (ch : Byte) (s : State) : (s.setLastChannel ch).res = s.res := rfl
@[simp] theorem setLastChannel_hist (ch : Byte) (s : State) : (s.setLastChannel ch).hist = s.hist := rfl
@[simp] theorem setLastChannel_env (ch : Byte) (s : State) : (s.setLastChannel ch).env = s.env := rfl

/-! ## writeCsr -/

@[simp] theorem writeCsr_cfg (a : BitVec 4) (v : Byte) (s : State) : (s.writeCsr a v).cfg = s.cfg := rfl
@[simp] theorem writeCsr_drv (a : BitVec 4) (v : Byte) (s : State) : (s.writeCsr a v).drv = s.drv := rfl
@[simp] theorem writeCsr_sqr (a : BitVec 4) (v : Byte) (s : State) : (s.writeCsr a v).sqr = s.sqr := rfl
@[simp] theorem writeCsr_csr (a : BitVec 4) (v : Byte) (s : State) : (s.writeCsr a v).csr = s.csr.write a v := rfl
@[simp] theorem writeCsr_lnk (a : BitVec 4) (v : Byte) (s : State) : (s.writeCsr a v).lnk = s.lnk := rfl
@[simp] theorem writeCsr_tx (a : BitVec 4) (v : Byte) (s : State) : (s.writeCsr a v).tx = s.tx := rfl
@[simp] theorem writeCsr_rx (a : BitVec 4) (v : Byte) (s : State) : (s.writeCsr a v).rx = s.rx := rfl
@[simp] theorem writeCsr_res (a : BitVec 4) (v : Byte) (s : State) : (s.writeCsr a v).res = s.res := rfl
@[simp] theorem writeCsr_hist (a : BitVec 4) (v : Byte) (s : State) : (s.writeCsr a v).hist = s.hist := rfl
@[simp] theorem writeCsr_env (a : BitVec 4) (v : Byte) (s : State) : (s.writeCsr a v).env = s.env := rfl

/-! ## pushTx -/

@[simp] theorem pushTx_cfg (b : Byte) (s : State) : (s.pushTx b).cfg = s.cfg := rfl
@[simp] theorem pushTx_drv (b : Byte) (s : State) : (s.pushTx b).drv = s.drv := rfl
@[simp] theorem pushTx_sqr (b : Byte) (s : State) : (s.pushTx b).sqr = s.sqr := rfl
@[simp] theorem pushTx_csr (b : Byte) (s : State) : (s.pushTx b).csr = s.csr := rfl
@[simp] theorem pushTx_lnk (b : Byte) (s : State) : (s.pushTx b).lnk = s.lnk := rfl
@[simp] theorem pushTx_tx (b : Byte) (s : State) : (s.pushTx b).tx = { s.tx with txq := s.tx.txq ++ [b] } := rfl
@[simp] theorem pushTx_rx (b : Byte) (s : State) : (s.pushTx b).rx = s.rx := rfl
@[simp] theorem pushTx_res (b : Byte) (s : State) : (s.pushTx b).res = s.res := rfl
@[simp] theorem pushTx_hist (b : Byte) (s : State) :
    (s.pushTx b).hist = { s.hist with enqueued := s.hist.enqueued ++ [b] } := rfl
@[simp] theorem pushTx_env (b : Byte) (s : State) : (s.pushTx b).env = s.env := rfl

/-! ## flushTx -/

@[simp] theorem flushTx_cfg (s : State) : (s.flushTx).cfg = s.cfg := rfl
@[simp] theorem flushTx_drv (s : State) : (s.flushTx).drv = s.drv := rfl
@[simp] theorem flushTx_sqr (s : State) : (s.flushTx).sqr = s.sqr := rfl
@[simp] theorem flushTx_csr (s : State) : (s.flushTx).csr = s.csr := rfl
@[simp] theorem flushTx_lnk (s : State) : (s.flushTx).lnk = s.lnk := rfl
@[simp] theorem flushTx_tx (s : State) :
    (s.flushTx).tx = { s.tx with txq := s.tx.txq.drop s.flushCount, txStage := s.tx.txStage ++ s.tx.txq.take s.flushCount } := rfl
@[simp] theorem flushTx_rx (s : State) : (s.flushTx).rx = s.rx := rfl
@[simp] theorem flushTx_res (s : State) : (s.flushTx).res = s.res := rfl
@[simp] theorem flushTx_hist (s : State) : (s.flushTx).hist = s.hist := rfl
@[simp] theorem flushTx_env (s : State) : (s.flushTx).env = s.env := rfl

/-! ## pollRx -/

@[simp] theorem pollRx_cfg (s : State) : (s.pollRx).cfg = s.cfg := rfl
@[simp] theorem pollRx_drv (s : State) : (s.pollRx).drv = s.drv := rfl
@[simp] theorem pollRx_sqr (s : State) : (s.pollRx).sqr = s.sqr := rfl
@[simp] theorem pollRx_csr (s : State) : (s.pollRx).csr = s.csr := rfl
@[simp] theorem pollRx_lnk (s : State) : (s.pollRx).lnk = s.lnk := rfl
@[simp] theorem pollRx_tx (s : State) : (s.pollRx).tx = s.tx := rfl
@[simp] theorem pollRx_rx (s : State) :
    (s.pollRx).rx = { s.rx with rxq := s.rx.rxq ++ s.rx.rxStage.take s.pollCount, rxStage := s.rx.rxStage.drop s.pollCount } := rfl
@[simp] theorem pollRx_res (s : State) : (s.pollRx).res = s.res := rfl
@[simp] theorem pollRx_hist (s : State) : (s.pollRx).hist = s.hist := rfl
@[simp] theorem pollRx_env (s : State) : (s.pollRx).env = s.env := rfl

/-! ## takeRx -/

@[simp] theorem takeRx_cfg (n : Nat) (s : State) : (s.takeRx n).cfg = s.cfg := rfl
@[simp] theorem takeRx_drv (n : Nat) (s : State) : (s.takeRx n).drv = s.drv := rfl
@[simp] theorem takeRx_sqr (n : Nat) (s : State) : (s.takeRx n).sqr = s.sqr := rfl
@[simp] theorem takeRx_csr (n : Nat) (s : State) : (s.takeRx n).csr = s.csr := rfl
@[simp] theorem takeRx_lnk (n : Nat) (s : State) : (s.takeRx n).lnk = s.lnk := rfl
@[simp] theorem takeRx_tx (n : Nat) (s : State) : (s.takeRx n).tx = s.tx := rfl
@[simp] theorem takeRx_rx (n : Nat) (s : State) : (s.takeRx n).rx = { s.rx with rxq := s.rx.rxq.drop n } := rfl
@[simp] theorem takeRx_res (n : Nat) (s : State) : (s.takeRx n).res = s.res := rfl
@[simp] theorem takeRx_hist (n : Nat) (s : State) :
    (s.takeRx n).hist = { s.hist with taken := s.hist.taken ++ s.rx.rxq.take n } := rfl
@[simp] theorem takeRx_env (n : Nat) (s : State) : (s.takeRx n).env = s.env := rfl

/-! ## initBegin -/

@[simp] theorem initBegin_cfg (s : State) : (s.initBegin).cfg = s.cfg := rfl
@[simp] theorem initBegin_drv (s : State) : (s.initBegin).drv = s.drv := rfl
@[simp] theorem initBegin_sqr (s : State) :
    (s.initBegin).sqr = { s.sqr with initActive := true, initCh := 0#8, initErrs := 0#8 } := rfl
@[simp] theorem initBegin_csr (s : State) : (s.initBegin).csr = s.csr := rfl
@[simp] theorem initBegin_lnk (s : State) : (s.initBegin).lnk = s.lnk := rfl
@[simp] theorem initBegin_tx (s : State) : (s.initBegin).tx = s.tx := rfl
@[simp] theorem initBegin_rx (s : State) : (s.initBegin).rx = s.rx := rfl
@[simp] theorem initBegin_res (s : State) : (s.initBegin).res = s.res := rfl
@[simp] theorem initBegin_hist (s : State) : (s.initBegin).hist = s.hist := rfl
@[simp] theorem initBegin_env (s : State) : (s.initBegin).env = s.env := rfl

/-! ## initNext -/

@[simp] theorem initNext_cfg (s : State) : (s.initNext).cfg = s.cfg := rfl
@[simp] theorem initNext_drv (s : State) : (s.initNext).drv = s.drv := rfl
@[simp] theorem initNext_sqr (s : State) : (s.initNext).sqr = { s.sqr with initCh := s.sqr.initCh + 1#8 } := rfl
@[simp] theorem initNext_csr (s : State) : (s.initNext).csr = s.csr := rfl
@[simp] theorem initNext_lnk (s : State) : (s.initNext).lnk = s.lnk := rfl
@[simp] theorem initNext_tx (s : State) : (s.initNext).tx = s.tx := rfl
@[simp] theorem initNext_rx (s : State) : (s.initNext).rx = s.rx := rfl
@[simp] theorem initNext_res (s : State) : (s.initNext).res = s.res := rfl
@[simp] theorem initNext_hist (s : State) : (s.initNext).hist = s.hist := rfl
@[simp] theorem initNext_env (s : State) : (s.initNext).env = s.env := rfl

/-! ## countErr -/

@[simp] theorem countErr_cfg (r : OpResult) (s : State) : (s.countErr r).cfg = s.cfg := rfl
@[simp] theorem countErr_drv (r : OpResult) (s : State) : (s.countErr r).drv = s.drv := rfl
@[simp] theorem countErr_sqr (r : OpResult) (s : State) :
    (s.countErr r).sqr = { s.sqr with initErrs := if r.err = .no then s.sqr.initErrs else s.sqr.initErrs + 1#8 } := rfl
@[simp] theorem countErr_csr (r : OpResult) (s : State) : (s.countErr r).csr = s.csr := rfl
@[simp] theorem countErr_lnk (r : OpResult) (s : State) : (s.countErr r).lnk = s.lnk := rfl
@[simp] theorem countErr_tx (r : OpResult) (s : State) : (s.countErr r).tx = s.tx := rfl
@[simp] theorem countErr_rx (r : OpResult) (s : State) : (s.countErr r).rx = s.rx := rfl
@[simp] theorem countErr_res (r : OpResult) (s : State) : (s.countErr r).res = s.res := rfl
@[simp] theorem countErr_hist (r : OpResult) (s : State) : (s.countErr r).hist = s.hist := rfl
@[simp] theorem countErr_env (r : OpResult) (s : State) : (s.countErr r).env = s.env := rfl

/-! ## initEnd -/

@[simp] theorem initEnd_cfg (s : State) : (s.initEnd).cfg = s.cfg := rfl
@[simp] theorem initEnd_drv (s : State) : (s.initEnd).drv = s.drv := rfl
@[simp] theorem initEnd_sqr (s : State) : (s.initEnd).sqr = { s.sqr with initActive := false, seq := .idle } := rfl
@[simp] theorem initEnd_csr (s : State) : (s.initEnd).csr = s.csr := rfl
@[simp] theorem initEnd_lnk (s : State) : (s.initEnd).lnk = s.lnk := rfl
@[simp] theorem initEnd_tx (s : State) : (s.initEnd).tx = s.tx := rfl
@[simp] theorem initEnd_rx (s : State) : (s.initEnd).rx = s.rx := rfl
@[simp] theorem initEnd_res (s : State) :
    (s.initEnd).res = { valid := true, cmd := .none, err := .no, val := s.sqr.initErrs.setWidth 16 } := rfl
@[simp] theorem initEnd_hist (s : State) : (s.initEnd).hist = s.hist := rfl
@[simp] theorem initEnd_env (s : State) : (s.initEnd).env = s.env := rfl

/-! ## waitOver -/

@[simp] theorem waitOver_cfg (s : State) : (s.waitOver).cfg = s.cfg := rfl
@[simp] theorem waitOver_drv (s : State) : (s.waitOver).drv = s.drv := rfl
@[simp] theorem waitOver_sqr (s : State) : (s.waitOver).sqr = { s.sqr with seq := .idle, timer := 0 } := rfl
@[simp] theorem waitOver_csr (s : State) : (s.waitOver).csr = s.csr := rfl
@[simp] theorem waitOver_lnk (s : State) : (s.waitOver).lnk = s.lnk := rfl
@[simp] theorem waitOver_tx (s : State) : (s.waitOver).tx = s.tx := rfl
@[simp] theorem waitOver_rx (s : State) : (s.waitOver).rx = s.rx := rfl
@[simp] theorem waitOver_res (s : State) : (s.waitOver).res = s.res := rfl
@[simp] theorem waitOver_hist (s : State) : (s.waitOver).hist = s.hist := rfl
@[simp] theorem waitOver_env (s : State) : (s.waitOver).env = s.env := rfl

/-! ## openAttempt -/

@[simp] theorem openAttempt_cfg (s : State) : (s.openAttempt).cfg = s.cfg := rfl
@[simp] theorem openAttempt_drv (s : State) : (s.openAttempt).drv = s.drv := rfl
@[simp] theorem openAttempt_sqr (s : State) :
    (s.openAttempt).sqr = { s.sqr with attempts := s.sqr.attempts + 1#8, seq := .openTry, timer := 0 } := rfl
@[simp] theorem openAttempt_csr (s : State) : (s.openAttempt).csr = s.csr := rfl
@[simp] theorem openAttempt_lnk (s : State) : (s.openAttempt).lnk = s.lnk := rfl
@[simp] theorem openAttempt_tx (s : State) : (s.openAttempt).tx = s.tx := rfl
@[simp] theorem openAttempt_rx (s : State) : (s.openAttempt).rx = s.rx := rfl
@[simp] theorem openAttempt_res (s : State) : (s.openAttempt).res = s.res := rfl
@[simp] theorem openAttempt_hist (s : State) : (s.openAttempt).hist = s.hist := rfl
@[simp] theorem openAttempt_env (s : State) : (s.openAttempt).env = s.env := rfl

/-! ## tick -/

@[simp] theorem tick_cfg (s : State) : (s.tick).cfg = s.cfg := rfl
@[simp] theorem tick_drv (s : State) : (s.tick).drv = s.drv := rfl
@[simp] theorem tick_sqr (s : State) : (s.tick).sqr = { s.sqr with timer := s.sqr.timer - 1 } := rfl
@[simp] theorem tick_csr (s : State) : (s.tick).csr = s.csr := rfl
@[simp] theorem tick_lnk (s : State) : (s.tick).lnk = s.lnk := rfl
@[simp] theorem tick_tx (s : State) : (s.tick).tx = s.tx := rfl
@[simp] theorem tick_rx (s : State) : (s.tick).rx = s.rx := rfl
@[simp] theorem tick_res (s : State) : (s.tick).res = s.res := rfl
@[simp] theorem tick_hist (s : State) : (s.tick).hist = s.hist := rfl
@[simp] theorem tick_env (s : State) : (s.tick).env = s.env := rfl

/-! ## shiftTo -/

@[simp] theorem shiftTo_cfg (b : Byte) (c : List Bool) (k p : Nat) (s : State) : (s.shiftTo b c k p).cfg = s.cfg := rfl
@[simp] theorem shiftTo_drv (b : Byte) (c : List Bool) (k p : Nat) (s : State) : (s.shiftTo b c k p).drv = s.drv := rfl
@[simp] theorem shiftTo_sqr (b : Byte) (c : List Bool) (k p : Nat) (s : State) : (s.shiftTo b c k p).sqr = s.sqr := rfl
@[simp] theorem shiftTo_csr (b : Byte) (c : List Bool) (k p : Nat) (s : State) : (s.shiftTo b c k p).csr = s.csr := rfl
@[simp] theorem shiftTo_lnk (b : Byte) (c : List Bool) (k p : Nat) (s : State) : (s.shiftTo b c k p).lnk = s.lnk := rfl
@[simp] theorem shiftTo_tx (b : Byte) (c : List Bool) (k p : Nat) (s : State) :
    (s.shiftTo b c k p).tx = { s.tx with txSh := .busy b c k p } := rfl
@[simp] theorem shiftTo_rx (b : Byte) (c : List Bool) (k p : Nat) (s : State) : (s.shiftTo b c k p).rx = s.rx := rfl
@[simp] theorem shiftTo_res (b : Byte) (c : List Bool) (k p : Nat) (s : State) : (s.shiftTo b c k p).res = s.res := rfl
@[simp] theorem shiftTo_hist (b : Byte) (c : List Bool) (k p : Nat) (s : State) : (s.shiftTo b c k p).hist = s.hist := rfl
@[simp] theorem shiftTo_env (b : Byte) (c : List Bool) (k p : Nat) (s : State) : (s.shiftTo b c k p).env = s.env := rfl

/-! ## dropByte -/

@[simp] theorem dropByte_cfg (s : State) : (dropByte s).cfg = s.cfg := rfl
@[simp] theorem dropByte_drv (s : State) : (dropByte s).drv = s.drv := rfl
@[simp] theorem dropByte_sqr (s : State) : (dropByte s).sqr = s.sqr := rfl
@[simp] theorem dropByte_csr (s : State) : (dropByte s).csr = s.csr := rfl
@[simp] theorem dropByte_lnk (s : State) : (dropByte s).lnk = { s.lnk with lineErr := true } := rfl
@[simp] theorem dropByte_tx (s : State) : (dropByte s).tx = s.tx := rfl
@[simp] theorem dropByte_rx (s : State) : (dropByte s).rx = s.rx := rfl
@[simp] theorem dropByte_res (s : State) : (dropByte s).res = s.res := rfl
@[simp] theorem dropByte_hist (s : State) : (dropByte s).hist = s.hist := rfl
@[simp] theorem dropByte_env (s : State) : (dropByte s).env = s.env := rfl

/-! ## recordIn -/

@[simp] theorem recordIn_cfg (b : Byte) (s : State) : (s.recordIn b).cfg = s.cfg := rfl
@[simp] theorem recordIn_drv (b : Byte) (s : State) : (s.recordIn b).drv = s.drv := rfl
@[simp] theorem recordIn_sqr (b : Byte) (s : State) : (s.recordIn b).sqr = s.sqr := rfl
@[simp] theorem recordIn_csr (b : Byte) (s : State) : (s.recordIn b).csr = s.csr := rfl
@[simp] theorem recordIn_lnk (b : Byte) (s : State) : (s.recordIn b).lnk = s.lnk := rfl
@[simp] theorem recordIn_tx (b : Byte) (s : State) : (s.recordIn b).tx = s.tx := rfl
@[simp] theorem recordIn_rx (b : Byte) (s : State) : (s.recordIn b).rx = s.rx := rfl
@[simp] theorem recordIn_res (b : Byte) (s : State) : (s.recordIn b).res = s.res := rfl
@[simp] theorem recordIn_hist (b : Byte) (s : State) :
    (s.recordIn b).hist = { s.hist with lineIn := s.hist.lineIn ++ [b] } := rfl
@[simp] theorem recordIn_env (b : Byte) (s : State) : (s.recordIn b).env = s.env := rfl

/-! ## setRxSh -/

@[simp] theorem setRxSh_cfg (r : RxShifter) (s : State) : (s.setRxSh r).cfg = s.cfg := rfl
@[simp] theorem setRxSh_drv (r : RxShifter) (s : State) : (s.setRxSh r).drv = s.drv := rfl
@[simp] theorem setRxSh_sqr (r : RxShifter) (s : State) : (s.setRxSh r).sqr = s.sqr := rfl
@[simp] theorem setRxSh_csr (r : RxShifter) (s : State) : (s.setRxSh r).csr = s.csr := rfl
@[simp] theorem setRxSh_lnk (r : RxShifter) (s : State) : (s.setRxSh r).lnk = s.lnk := rfl
@[simp] theorem setRxSh_tx (r : RxShifter) (s : State) : (s.setRxSh r).tx = s.tx := rfl
@[simp] theorem setRxSh_rx (r : RxShifter) (s : State) : (s.setRxSh r).rx = { s.rx with rxSh := r } := rfl
@[simp] theorem setRxSh_res (r : RxShifter) (s : State) : (s.setRxSh r).res = s.res := rfl
@[simp] theorem setRxSh_hist (r : RxShifter) (s : State) : (s.setRxSh r).hist = s.hist := rfl
@[simp] theorem setRxSh_env (r : RxShifter) (s : State) : (s.setRxSh r).env = s.env := rfl

/-! ## shiftSync -/

@[simp] theorem shiftSync_cfg (x : Bool) (s : State) : (s.shiftSync x).cfg = s.cfg := rfl
@[simp] theorem shiftSync_drv (x : Bool) (s : State) : (s.shiftSync x).drv = s.drv := rfl
@[simp] theorem shiftSync_sqr (x : Bool) (s : State) : (s.shiftSync x).sqr = s.sqr := rfl
@[simp] theorem shiftSync_csr (x : Bool) (s : State) : (s.shiftSync x).csr = s.csr := rfl
@[simp] theorem shiftSync_lnk (x : Bool) (s : State) : (s.shiftSync x).lnk = s.lnk := rfl
@[simp] theorem shiftSync_tx (x : Bool) (s : State) : (s.shiftSync x).tx = s.tx := rfl
@[simp] theorem shiftSync_rx (x : Bool) (s : State) :
    (s.shiftSync x).rx = { s.rx with rxPrev := s.rx.rxSync2, rxSync2 := s.rx.rxSync1, rxSync1 := x } := rfl
@[simp] theorem shiftSync_res (x : Bool) (s : State) : (s.shiftSync x).res = s.res := rfl
@[simp] theorem shiftSync_hist (x : Bool) (s : State) : (s.shiftSync x).hist = s.hist := rfl
@[simp] theorem shiftSync_env (x : Bool) (s : State) : (s.shiftSync x).env = s.env := rfl

/-! ## withCodeWord -/

@[simp] theorem withCodeWord_cfg (c : CodeWord) (s : State) : (s.withCodeWord c).cfg = s.cfg := rfl
@[simp] theorem withCodeWord_drv (c : CodeWord) (s : State) : (s.withCodeWord c).drv = s.drv := rfl
@[simp] theorem withCodeWord_sqr (c : CodeWord) (s : State) : (s.withCodeWord c).sqr = { s.sqr with seq := .idle } := rfl
@[simp] theorem withCodeWord_csr (c : CodeWord) (s : State) : (s.withCodeWord c).csr = s.csr := rfl
@[simp] theorem withCodeWord_lnk (c : CodeWord) (s : State) : (s.withCodeWord c).lnk = s.lnk := rfl
@[simp] theorem withCodeWord_tx (c : CodeWord) (s : State) : (s.withCodeWord c).tx = s.tx := rfl
@[simp] theorem withCodeWord_rx (c : CodeWord) (s : State) : (s.withCodeWord c).rx = s.rx := rfl
@[simp] theorem withCodeWord_res (c : CodeWord) (s : State) : (s.withCodeWord c).res = s.res := rfl
@[simp] theorem withCodeWord_hist (c : CodeWord) (s : State) : (s.withCodeWord c).hist = s.hist := rfl
@[simp] theorem withCodeWord_env (c : CodeWord) (s : State) :
    (s.withCodeWord c).env = { s.env with schedule := .present c :: s.env.schedule } := rfl

/-! ## hardReset -/

@[simp] theorem hardReset_cfg (s : State) : s.hardReset.cfg = s.cfg := rfl
@[simp] theorem hardReset_env (s : State) : s.hardReset.env = s.env := rfl
@[simp] theorem hardReset_lnk (s : State) : s.hardReset.lnk = (State.resetWith s.cfg).lnk := rfl
@[simp] theorem hardReset_drv (s : State) : s.hardReset.drv = (State.resetWith s.cfg).drv := rfl
@[simp] theorem hardReset_sqr (s : State) : s.hardReset.sqr = (State.resetWith s.cfg).sqr := rfl
@[simp] theorem hardReset_csr (s : State) : s.hardReset.csr = (State.resetWith s.cfg).csr := rfl
@[simp] theorem hardReset_tx (s : State) : s.hardReset.tx = (State.resetWith s.cfg).tx := rfl
@[simp] theorem hardReset_rx (s : State) : s.hardReset.rx = (State.resetWith s.cfg).rx := rfl
@[simp] theorem hardReset_res (s : State) : s.hardReset.res = (State.resetWith s.cfg).res := rfl
@[simp] theorem hardReset_hist (s : State) : s.hardReset.hist = (State.resetWith s.cfg).hist := rfl

end Sys2Proof.Machine
end

