-- ==== Sys2Proof/Laws/Moves.lean ====
section
/-!
SUPPORT. What a step can do, said once: every step but a reset is a sequence of the moves listed here, each one named update under the
guard the operations test before it. An invariant that each move and a reset keep is kept by every step (`step_keeps`).
-/

namespace Sys2Proof.Machine

/-- The sequencer's registers and the result registers set, with a lawful result or with the result untouched. -/
def State.control (q : Sequencer) (r : ResultRegs) (s : State) : State := { s with sqr := q, res := r }

/-- The link state and its cause set. -/
def State.setLink (l : Link) (c : FCause) (s : State) : State := { s with lnk := { s.lnk with link := l, fcause := c } }

/-- The histories' (operation, result) sequence set. -/
def State.setLog (l : List OpRecord) (s : State) : State := { s with hist := { s.hist with opLog := l } }

/-- The inputs set. -/
def State.setEnv (e : Environment) (s : State) : State := { s with env := e }

/-- The moves of the machine. -/
inductive Move : State → State → Prop where
  | control (s : State) (q : Sequencer) (r : ResultRegs)
      (law : resultLawful r.cmd r.err r.val ∨ (r.cmd = s.res.cmd ∧ r.err = s.res.err ∧ r.val = s.res.val)) :
      Move s (s.control q r)
  | link (s : State) (l : Link) (c : FCause) (left : l ≠ .closed) : Move s (s.setLink l c)
  | log (s : State) (l : List OpRecord) : Move s (s.setLog l)
  | env (s : State) (e : Environment) : Move s (s.setEnv e)
  | csr (s : State) (a : BitVec 4) (v : Byte) (frozen : csrFrozenUnlessClosed a = true → s.lnk.link = .closed)
      (legal : csrValueLegal a v = true) : Move s (s.writeCsr a v)
  | relay (s : State) (ch : Byte) (v : Bool) : Move s (s.setRelay ch v)
  | lastChannel (s : State) (ch : Byte) (valid : s.validChannel ch = true) : Move s (s.setLastChannel ch)
  | push (s : State) (b : Byte) (room : s.tx.txq.length ≠ s.cfg.cap) : Move s (s.pushTx b)
  | flush (s : State) : Move s s.flushTx
  | poll (s : State) : Move s s.pollRx
  | take (s : State) (n : Nat) : Move s (s.takeRx n)
  | txStart (s : State) : Move s (txStartStep s)
  | txDone (s : State) : Move s (txDoneStep s)
  | shift (s : State) (b : Byte) (c c' : List Bool) (k k' p p' : Nat) (busy : s.tx.txSh = .busy b c' k' p') :
      Move s (s.shiftTo b c k p)
  | stage (s : State) (b : Byte) (fits : b.toNat < 2 ^ dataBits s.csr.lineFmt) : Move s (stageByte b s)
  | drop (s : State) : Move s (dropByte s)
  | record (s : State) (b : Byte) : Move s (s.recordIn b)
  | rxShift (s : State) (r : RxShifter) : Move s (s.setRxSh r)
  | sync (s : State) (x : Bool) : Move s (s.shiftSync x)

/-- Finitely many moves. -/
abbrev Moves : State → State → Prop := Relation.ReflTransGen Move

theorem Moves.one {s t : State} (h : Move s t) : Moves s t := Relation.ReflTransGen.single h

theorem Moves.keeps {P : State → Prop} (step : ∀ s t, Move s t → P s → P t) {s t : State} (h : Moves s t) (hs : P s) : P t := by
  induction h with
  | refl => exact hs
  | tail _ hm ih => exact step _ _ hm ih

/-! ## Results are lawful -/

/-- A result obeys the general law (30_encoding.md R103). -/
abbrev OpResult.lawful (r : OpResult) : Prop := resultLawful r.cmd r.err r.val

theorem lawful_error {e : ErrCode} (h : e ≠ .no) : (OpResult.error e).lawful :=
  ⟨fun _ => ⟨rfl, rfl⟩, fun h' => absurd h' h⟩

theorem lawful_value (v : BitVec 16) : (OpResult.value v).lawful :=
  ⟨fun h => absurd rfl h, fun _ => by simp [OpResult.value]⟩

theorem lawful_reported (rep : Bool) : (OpResult.command (reportedCommand rep)).lawful :=
  ⟨fun h => absurd rfl h, fun _ => by cases rep <;> simp [OpResult.command, reportedCommand]⟩

/-! ## The named updates as moves -/

theorem moves_control (s : State) (q : Sequencer) : Moves s { s with sqr := q } :=
  .one (.control s q s.res (.inr ⟨rfl, rfl, rfl⟩))

theorem moves_finish (s : State) (r : OpResult) (h : r.lawful) : Moves s (s.finish r) :=
  .one (.control s _ _ (.inl h))

theorem moves_raise (s : State) {e : ErrCode} (h : e ≠ .no) : Moves s (s.raise e) := moves_finish s _ (lawful_error h)

theorem moves_accept (s : State) (w : HostWord) : Moves s (s.accept w) := .one (.control s _ _ (.inr ⟨rfl, rfl, rfl⟩))

theorem moves_clearValid (s : State) : Moves s s.clearValid := .one (.control s s.sqr _ (.inr ⟨rfl, rfl, rfl⟩))

theorem moves_startWait (s : State) (q : Seq) (n : Nat) : Moves s (s.startWait q n) := moves_control s _

theorem moves_initBegin (s : State) : Moves s s.initBegin := moves_control s _

theorem moves_initNext (s : State) : Moves s s.initNext := moves_control s _

theorem moves_countErr (s : State) (r : OpResult) : Moves s (s.countErr r) := moves_control s _

theorem moves_openAttempt (s : State) : Moves s s.openAttempt := moves_control s _

theorem moves_tick (s : State) : Moves s s.tick := moves_control s _

theorem moves_initEnd (s : State) : Moves s s.initEnd :=
  (moves_control s { s.sqr with initActive := false }).trans (moves_finish _ _ (lawful_value _))

theorem moves_enterFatal (s : State) (c : FCause) : Moves s (s.enterFatal c) :=
  (Moves.one (.link s .fatal c (by decide))).trans
    (Moves.one (.control _ { s.sqr with seq := .idle, initActive := false }
      { valid := true, cmd := .error, err := .fatal, val := 0#16 }
      (.inl ⟨fun _ => ⟨rfl, rfl⟩, fun h => by simp at h⟩)))

theorem moves_afterInput (s : State) : Moves s s.afterInput := by
  unfold State.afterInput
  split
  · exact .one (.env s _)
  · exact .one (.env s _)

theorem moves_logResult (b s : State) : Moves s (b.logResult s) := by
  unfold State.logResult
  split
  · exact .one (.log s _)
  · exact .refl

/-! ## The shared operations as moves -/

theorem moves_enqueue (b : Byte) (s : State) : Moves s (s.enqueue b).1 := by
  unfold State.enqueue
  split
  · exact .refl
  · rename_i h
    exact .one (.push s b (by simpa [State.txqFull] using h))

theorem moves_enqueueAll (bs : List Byte) (s : State) : Moves s (s.enqueueAll bs).1 := by
  induction bs generalizing s with
  | nil => exact .refl
  | cons b bs ih => exact (moves_enqueue b s).trans (ih _)

theorem moves_transmitFrame (f : Frame) (s : State) : Moves s (transmitFrame f s).1 :=
  (moves_enqueueAll f.bytes s).trans (Moves.one (.flush _))

theorem moves_predicted (cmd : BitVec 4) (ch : Byte) (s : State) (h : s.validChannel ch = true) :
    Moves s (predicted cmd ch s) :=
  (Moves.one (.relay s ch _)).trans (Moves.one (.lastChannel _ ch h))

theorem moves_sendOut (cmd : BitVec 4) (ch : Byte) (s : State) (h : s.validChannel ch = true) :
    Moves s (sendOut cmd ch s).1 :=
  (moves_predicted cmd ch s h).trans (moves_transmitFrame _ _)

/-- RECV's checks: moves and a lawful result. -/
theorem moves_evalWindow (f : Frame) (s : State) : Moves s (evalWindow f s).1 ∧ (evalWindow f s).2.lawful := by
  unfold evalWindow
  repeat' split
  · exact ⟨.refl, lawful_error (by decide)⟩
  · exact ⟨.refl, lawful_error (by decide)⟩
  · exact ⟨.refl, lawful_error (by decide)⟩
  · exact ⟨.one (.relay s _ _), lawful_error (by decide)⟩
  · exact ⟨.refl, lawful_reported _⟩

/-- RECV from its poll on: moves and a lawful result. -/
theorem moves_recvFrom (s : State) : Moves s (recvFrom s).1 ∧ (recvFrom s).2.lawful := by
  unfold recvFrom
  dsimp only
  split
  · exact ⟨.one (.poll s), lawful_error (by decide)⟩
  · exact ⟨((Moves.one (.poll s)).trans (Moves.one (.take _ _))).trans (moves_evalWindow _ _).1, (moves_evalWindow _ _).2⟩

/-- SEND up to its wait: moves, and a lawful result if it has one. -/
theorem moves_sendFrom (cmd : BitVec 4) (ch : Byte) (s : State) :
    Moves s (sendFrom cmd ch s).1 ∧ ∀ r, (sendFrom cmd ch s).2 = some r → r.lawful := by
  by_cases hv : s.validChannel ch = true
  · have ho := moves_sendOut cmd ch s hv
    have hr := moves_recvFrom (sendOut cmd ch s).1
    simp only [sendFrom, hv, Bool.not_true, Bool.false_eq_true, if_false]
    generalize sendOut cmd ch s = p at ho hr
    by_cases h6 : 6 ≤ cmd.toNat
    · simp only [h6, if_true, Option.some.injEq, forall_eq']
      exact ⟨.refl, lawful_error (by decide)⟩
    by_cases hp : (!p.2) = true
    · simp only [h6, hp, if_true, if_false, Option.some.injEq, forall_eq']
      exact ⟨ho, lawful_error (by decide)⟩
    by_cases hc : (!isCheckType cmd) = true
    · simp only [h6, hp, hc, Bool.false_eq_true, if_true, if_false, Option.some.injEq, forall_eq']
      exact ⟨ho, lawful_value _⟩
    by_cases hw : s.answerWaitMs = 0
    · simp only [h6, hp, hc, hw, Bool.false_eq_true, if_true, if_false, Option.some.injEq, forall_eq']
      exact ⟨ho, lawful_error (by decide)⟩
    by_cases hz : s.answerWaitCycles = 0
    · simp only [h6, hp, hc, hw, hz, Bool.false_eq_true, if_true, if_false, Option.some.injEq, forall_eq']
      exact ⟨ho.trans hr.1, hr.2⟩
    · simp only [h6, hp, hc, hw, hz, Bool.false_eq_true, if_false]
      exact ⟨ho.trans (moves_startWait _ _ _), fun r h => by cases h⟩
  · simp only [sendFrom, hv, Bool.not_false, if_true, Option.some.injEq, forall_eq']
    exact ⟨.refl, lawful_error (by decide)⟩

theorem moves_initLoop (n : Nat) (s : State) : Moves s (initLoop n s) := by
  induction n generalizing s with
  | zero => exact moves_initEnd s
  | succ n ih =>
    have h := moves_sendFrom (commandCode .check) s.initNext.sqr.initCh s.initNext
    simp only [initLoop]
    split
    · rename_i t e
      rw [e] at h
      exact (moves_initNext s).trans h.1
    · rename_i t r e
      rw [e] at h
      exact (((moves_initNext s).trans h.1).trans (moves_countErr _ _)).trans (ih _)

theorem moves_answerWaitEnds (s : State) : Moves s (answerWaitEnds s) := by
  have h := moves_recvFrom s.waitOver
  have h0 := (moves_control s s.waitOver.sqr).trans h.1
  simp only [answerWaitEnds]
  split
  · exact (h0.trans (moves_countErr _ _)).trans (moves_initLoop _ _)
  · exact h0.trans (moves_finish _ _ h.2)

theorem moves_openSample (d : Bool) (s : State) : Moves s (openSample d s) := by
  unfold openSample
  repeat' split
  · exact (Moves.one (.link s .opened s.lnk.fcause (by decide))).trans (moves_finish _ _ (lawful_value _))
  · exact moves_enterFatal _ _
  · exact moves_openAttempt _
  · exact moves_startWait _ _ _

theorem moves_seqClock (d : Bool) (s : State) : Moves s (seqClock d s) := by
  unfold seqClock
  repeat' split
  · exact .refl
  · exact moves_openSample _ _
  · exact moves_openAttempt _
  · exact moves_tick _
  · exact moves_answerWaitEnds _
  · exact moves_tick _

theorem moves_waitEnds (s : State) : Moves s (waitEnds s) := by
  unfold waitEnds
  split
  · exact .refl
  · exact .refl
  · exact moves_openAttempt _
  · exact moves_answerWaitEnds _

theorem moves_txClock (s : State) : Moves s (txClock s) := by
  unfold txClock
  split
  · rename_i b c k p _ hb
    split
    · exact .one (.shift s _ _ _ _ _ _ _ hb)
    · split
      · exact .one (.shift s _ _ _ _ _ _ _ hb)
      · exact (Moves.one (.txDone s)).trans (Moves.one (.txStart _))
  · exact .one (.txStart s)
  · exact .refl

/-- What the line lets through of a byte has no bits above the data bits. -/
theorem lineByte_lt (fmt b : Byte) : (lineByte fmt b).toNat < 2 ^ dataBits fmt := by
  have h : b.toNat % 2 ^ dataBits fmt < 2 ^ dataBits fmt := Nat.mod_lt _ (Nat.two_pow_pos _)
  simp only [lineByte, BitVec.toNat_ofNat]
  exact lt_of_le_of_lt (Nat.mod_le _ _) h

theorem moves_deliverByte (b : Byte) (g : Bool) (s : State) : Moves s (deliverByte b g s) := by
  unfold deliverByte
  repeat' split
  · exact (Moves.one (.record s b)).trans (Moves.one (.stage _ _ (lineByte_lt _ b)))
  · exact (Moves.one (.record s b)).trans (Moves.one (.drop _))
  · exact .refl

theorem moves_receiveSample (x : Bool) (s : State) : Moves s (receiveSample x s) := by
  unfold receiveSample sampleBit
  repeat' split
  · exact .one (.rxShift s _)
  · exact .refl
  · exact .one (.rxShift s _)
  · exact .one (.rxShift s _)
  · exact .one (.rxShift s _)
  · exact .one (.rxShift s _)
  · exact (Moves.one (.rxShift s _)).trans (moves_deliverByte _ _ _)

theorem moves_rxClock (x : Bool) (s : State) : Moves s (rxClock x s) := by
  unfold rxClock
  split
  · exact (moves_receiveSample _ _).trans (Moves.one (.sync _ _))
  · exact .refl

theorem moves_sendOp (cmd : BitVec 4) (ch : Byte) (s : State) : Moves s (sendOp cmd ch s) := by
  have h := moves_sendFrom cmd ch s
  unfold sendOp
  split
  · exact moves_raise s (by decide)
  · split
    · rename_i t r e
      rw [e] at h
      exact h.1.trans (moves_finish _ _ (h.2 _ rfl))
    · rename_i t e
      rw [e] at h
      exact h.1

theorem moves_commandFrameOp (f : Frame) (s : State) : Moves s (commandFrameOp f s) := by
  unfold commandFrameOp
  repeat' split
  · exact moves_raise s (by decide)
  · exact (moves_transmitFrame f s).trans (moves_finish _ _ (lawful_value _))
  · exact (moves_transmitFrame f s).trans (moves_raise _ (by decide))

theorem moves_feedbackFrameOp (f : Frame) (s : State) : Moves s (feedbackFrameOp f s) := by
  unfold feedbackFrameOp
  split
  · exact moves_raise s (by decide)
  · exact (moves_evalWindow f s).1.trans (moves_finish _ _ (moves_evalWindow f s).2)

/-! ## Instructions -/

/-- The link states are four. -/
theorem link_of_not_closed_bne {l : Link} (h : (l != Link.closed) = false) : l = .closed := by
  cases l <;> simp at h ⊢

/-- Every instruction answers a next state, reached by moves. -/
theorem exec_moves (i : Instr) (s : State) : ∃ t, exec i s = .next t ∧ Moves s t := by
  cases i with
  | reserved0 =>
    simp only [exec, execReserved0]
    split
    · exact ⟨_, rfl, moves_raise s (by decide)⟩
    · exact ⟨_, rfl, moves_raise s (by decide)⟩
  | cfgwr a v =>
    simp only [exec, execCfgwr]
    split
    · exact ⟨_, rfl, moves_raise s (by decide)⟩
    split
    · exact ⟨_, rfl, moves_raise s (by decide)⟩
    split
    · exact ⟨_, rfl, moves_raise s (by decide)⟩
    rename_i hf
    split
    · exact ⟨_, rfl, moves_raise s (by decide)⟩
    rename_i hl
    refine ⟨_, rfl, (Moves.one (.csr s a v ?_ (by simpa using hl))).trans (moves_finish _ _ (lawful_value _))⟩
    intro ha
    exact link_of_not_closed_bne (by simpa [ha] using hf)
  | openLink =>
    simp only [exec, execOpenLink]
    split
    · exact ⟨_, rfl, moves_raise s (by decide)⟩
    split
    · exact ⟨_, rfl, moves_enterFatal _ _⟩
    · exact ⟨_, rfl, (Moves.one (.link s .opening s.lnk.fcause (by decide))).trans (moves_control _ _)⟩
  | enq b =>
    simp only [exec, execEnq]
    split
    · exact ⟨_, rfl, moves_raise s (by decide)⟩
    · exact ⟨_, rfl, (moves_enqueue b s).trans (moves_finish _ _ (lawful_value _))⟩
  | flush =>
    simp only [exec, execFlush]
    split
    · exact ⟨_, rfl, moves_raise s (by decide)⟩
    · exact ⟨_, rfl, (Moves.one (.flush s)).trans (moves_finish _ _ (lawful_value _))⟩
  | poll =>
    simp only [exec, execPoll]
    split
    · exact ⟨_, rfl, moves_raise s (by decide)⟩
    · exact ⟨_, rfl, (Moves.one (.poll s)).trans (moves_finish _ _ (lawful_value _))⟩
  | deq =>
    simp only [exec, execDeq]
    split
    · exact ⟨_, rfl, moves_raise s (by decide)⟩
    split
    · exact ⟨_, rfl, moves_raise s (by decide)⟩
    · exact ⟨_, rfl, (Moves.one (.take s 1)).trans (moves_finish _ _ (lawful_value _))⟩
  | pendw =>
    simp only [exec, execPendw]
    split
    · exact ⟨_, rfl, moves_raise s (by decide)⟩
    · exact ⟨_, rfl, moves_finish _ _ (lawful_value _)⟩
  | pendr =>
    simp only [exec, execPendr]
    split
    · exact ⟨_, rfl, moves_raise s (by decide)⟩
    · exact ⟨_, rfl, moves_finish _ _ (lawful_value _)⟩
  | init =>
    simp only [exec, execInit]
    split
    · exact ⟨_, rfl, moves_raise s (by decide)⟩
    · exact ⟨_, rfl, (moves_initBegin s).trans (moves_initLoop _ _)⟩
  | send cmd ch => exact ⟨_, rfl, moves_sendOp _ _ _⟩
  | sendOff ch => exact ⟨_, rfl, moves_sendOp _ _ _⟩
  | sendOn ch => exact ⟨_, rfl, moves_sendOp _ _ _⟩
  | sendOffCheck ch => exact ⟨_, rfl, moves_sendOp _ _ _⟩
  | sendOnCheck ch => exact ⟨_, rfl, moves_sendOp _ _ _⟩
  | sendNegateCheck ch => exact ⟨_, rfl, moves_sendOp _ _ _⟩
  | sendCheck ch => exact ⟨_, rfl, moves_sendOp _ _ _⟩
  | sendNone ch => exact ⟨_, rfl, moves_sendOp _ _ _⟩
  | sendError ch => exact ⟨_, rfl, moves_sendOp _ _ _⟩
  | sendReserved code ch => exact ⟨_, rfl, moves_sendOp _ _ _⟩
  | recv =>
    simp only [exec, execRecv]
    split
    · exact ⟨_, rfl, moves_raise s (by decide)⟩
    · exact ⟨_, rfl, (moves_recvFrom s).1.trans (moves_finish _ _ (moves_recvFrom s).2)⟩
  | compose r fb =>
    simp only [exec, execCompose]
    split
    · exact ⟨_, rfl, moves_raise s (by decide)⟩
    · exact ⟨_, rfl, moves_finish _ _ ⟨fun h => absurd rfl h, fun _ => by cases r <;> cases fb <;> simp [composed]⟩⟩
  | cmd2bool cmd =>
    simp only [exec, execCmd2bool]
    split
    · exact ⟨_, rfl, moves_raise s (by decide)⟩
    split
    · exact ⟨_, rfl, moves_finish _ _ (lawful_value _)⟩
    split
    · exact ⟨_, rfl, moves_finish _ _ (lawful_value _)⟩
    · exact ⟨_, rfl, moves_enterFatal _ _⟩
  | rdstate ch =>
    simp only [exec, execRdstate]
    split
    · exact ⟨_, rfl, moves_raise s (by decide)⟩
    split
    · exact ⟨_, rfl, moves_raise s (by decide)⟩
    · exact ⟨_, rfl, moves_finish _ _ (lawful_value _)⟩
  | rdcsr a =>
    simp only [exec, execRdcsr]
    split
    · exact ⟨_, rfl, moves_finish _ _ (lawful_value _)⟩
    · exact ⟨_, rfl, moves_raise s (by decide)⟩
  | frameOff ch ck => exact ⟨_, rfl, moves_commandFrameOp _ _⟩
  | frameOn ch ck => exact ⟨_, rfl, moves_commandFrameOp _ _⟩
  | frameOffCheck ch ck => exact ⟨_, rfl, moves_commandFrameOp _ _⟩
  | frameOnCheck ch ck => exact ⟨_, rfl, moves_commandFrameOp _ _⟩
  | frameNegateCheck ch ck => exact ⟨_, rfl, moves_commandFrameOp _ _⟩
  | frameCheck ch ck => exact ⟨_, rfl, moves_commandFrameOp _ _⟩
  | fbOff ch ck => exact ⟨_, rfl, moves_feedbackFrameOp _ _⟩
  | fbOn ch ck => exact ⟨_, rfl, moves_feedbackFrameOp _ _⟩

/-! ## A step -/

/-- What the fetch leaves: the state before the instruction, or the agent's step done. -/
def Fetched.reachedBy (s : State) : Fetched → Prop
  | .run _ t _ => Moves s t
  | .done t => Moves s t
  | .notAFrame => True

theorem present_reachedBy (c : CodeWord) (s : State) : (present c s).reachedBy s := by
  unfold present
  split
  · exact .refl
  split
  · exact moves_accept s _
  · split
    · exact moves_clearValid s
    · trivial
  · split
    · exact moves_clearValid s
    · exact (moves_clearValid s).trans (moves_feedbackFrameOp _ _)

theorem react_reachedBy (i : Input) (s : State) (h : i ≠ .reset) : (react i s).reachedBy s := by
  cases i with
  | present c => exact present_reachedBy c s
  | seqClk d => exact (moves_seqClock d s).trans (moves_logResult _ _)
  | txClk => exact moves_txClock s
  | rxClk x => exact moves_rxClock x s
  | waitEnd => exact (moves_waitEnds s).trans (moves_logResult _ _)
  | txStart => exact .one (.txStart s)
  | txDone => exact .one (.txDone s)
  | deliver b g => exact moves_deliverByte b g s
  | reset => exact absurd rfl h

/-- Every step is a reset or a sequence of moves. -/
theorem step_moves {s t : State} (h : step s = .next t) :
    (s.nextInput = .reset ∧ t = s.afterInput.hardReset) ∨ (s.nextInput ≠ .reset ∧ Moves s t) := by
  by_cases hr : s.nextInput = .reset
  · refine .inl ⟨hr, ?_⟩
    simp only [step, fetch, hr, react] at h
    injection h with h
    exact h.symm
  refine .inr ⟨hr, ?_⟩
  have hf : (fetch s).reachedBy s.afterInput := react_reachedBy _ _ hr
  unfold step at h
  split at h
  · rename_i i u hostOp e
    rw [e] at hf
    obtain ⟨v, hv, hm⟩ := exec_moves i u
    rw [hv] at h
    simp only [afterExec] at h
    injection h with h
    subst h
    have hu := ((moves_afterInput s).trans hf).trans hm
    split
    · exact hu.trans (moves_logResult _ _)
    · exact hu
  · rename_i u e
    rw [e] at hf
    injection h with h
    subst h
    exact (moves_afterInput s).trans hf
  · cases h

/-- An invariant that a reset and every move keep is kept by every step. -/
theorem step_keeps {P : State → Prop} (hP : ∀ s t, Move s t → P s → P t)
    (hR : ∀ s : State, P s → P s.afterInput.hardReset) {s t : State} (h : step s = .next t) (hs : P s) : P t := by
  rcases step_moves h with ⟨-, rfl⟩ | ⟨-, hm⟩
  · exact hR s hs
  · exact hm.keeps hP hs

end Sys2Proof.Machine
end

