-- ==== Sys2Proof/Laws/Ops.lean ====
section
/-!
SUPPORT. One lemma per shared operation that says once everything it can do, so that later proofs cite it and do not unfold the
operation.
-/

namespace Sys2Proof.Machine

/-! ## Codes -/

@[simp] theorem linkOpen_iff (s : State) : s.linkOpen = true ↔ s.lnk.link = .opened := by
  simp [State.linkOpen]

@[simp] theorem linkFatal_iff (s : State) : s.linkFatal = true ↔ s.lnk.link = .fatal := by
  simp [State.linkFatal]

@[simp] theorem validChannel_iff (s : State) (ch : Byte) :
    s.validChannel ch = true ↔ 1 ≤ ch.toNat ∧ ch.toNat ≤ s.cfg.channels := by
  simp [State.validChannel]

/-- A channel that is valid is not 0. -/
theorem ne_zero_of_one_le {ch : Byte} (h : 1 ≤ ch.toNat) : ch ≠ 0#8 := by
  rintro rfl
  simp at h

theorem predict_commandCode (c : Command) (old : Bool) (h : isWireCommand c) :
    predict (commandCode c) old = predictionOf c old := by
  cases c <;> simp_all [predict, commandCode, predictionOf, isWireCommand]

theorem commandCode_wireCode (c : Command) : (commandCode c).setWidth 8 = wireCode c := by
  cases c <;> decide

theorem commandCode_lt (c : Command) (h : isWireCommand c) : ¬ 6 ≤ (commandCode c).toNat := by
  cases c <;> simp_all [commandCode, isWireCommand]

theorem isCheckType_commandCode (c : Command) : isCheckType (commandCode c) = decide (isCheckCommand c) := by
  cases c <;> decide

/-! ## Queues -/

/-- Enqueues in order accept as many bytes as there is room for, and say whether that was all (40_transport_ops.md R131). -/
theorem enqueueAll_eq (bs : List Byte) (s : State) (h : s.tx.txq.length ≤ s.cfg.cap) :
    s.enqueueAll bs =
      ({ s with
          tx := { s.tx with txq := s.tx.txq ++ bs.take (s.cfg.cap - s.tx.txq.length) }
          hist := { s.hist with enqueued := s.hist.enqueued ++ bs.take (s.cfg.cap - s.tx.txq.length) } },
        decide (bs.length ≤ s.cfg.cap - s.tx.txq.length)) := by
  induction bs generalizing s with
  | nil => simp [State.enqueueAll]
  | cons b bs ih =>
    by_cases hf : s.tx.txq.length = s.cfg.cap
    · have he : s.enqueue b = (s, false) := by simp [State.enqueue, State.txqFull, hf]
      simp only [State.enqueueAll, he]
      rw [ih s h]
      simp [hf]
    · have he : s.enqueue b = (s.pushTx b, true) := by simp [State.enqueue, State.txqFull, hf]
      have hl : s.tx.txq.length < s.cfg.cap := by omega
      obtain ⟨k, hk⟩ : ∃ k, s.cfg.cap - s.tx.txq.length = k + 1 := ⟨s.cfg.cap - s.tx.txq.length - 1, by omega⟩
      simp only [State.enqueueAll, he]
      rw [ih (s.pushTx b) (by simp [State.pushTx]; omega)]
      have hk' : s.cfg.cap - (s.tx.txq.length + 1) = k := by omega
      simp [State.pushTx, hk, hk']

/-- Handing over a frame: as many bytes as there is room for are queued, the flush moves the oldest into `tx_stage`, and the answer
says that the whole frame was handed over (43_protocol_driver.md R220 L7 to L10). -/
theorem transmitFrame_eq (f : Frame) (s : State) (h : s.tx.txq.length ≤ s.cfg.cap) :
    transmitFrame f s = (s.frameQueued f, decide s.roomForFrame) := by
  simp only [transmitFrame]
  rw [enqueueAll_eq f.bytes s h]
  refine Prod.ext_iff.2 ⟨rfl, ?_⟩
  by_cases hc : f.bytes.length ≤ s.cfg.cap - s.tx.txq.length
  · have hc' : 4 ≤ s.cfg.cap - s.tx.txq.length := by simpa [Frame.bytes] using hc
    have h4 : f.bytes.length = 4 := rfl
    have h5 : f.bytes.take (s.cfg.cap - s.tx.txq.length) = f.bytes := List.take_of_length_le hc
    simp only [State.flushCount, State.roomForFrame, h5, List.length_append, h4, hc', decide_true, Bool.true_and,
      decide_eq_decide]
    omega
  · have hc' : ¬ 4 ≤ s.cfg.cap - s.tx.txq.length := by simpa [Frame.bytes] using hc
    simp [State.roomForFrame, Frame.bytes, hc']
    omega

/-- Whatever the queues hold, handing over a frame writes nothing but the transmit queues and the enqueued bytes. -/
theorem transmitFrame_frame (f : Frame) (s : State) :
    ∃ (q : TxPath) (h : History), (transmitFrame f s).1 = { s with tx := q, hist := h } ∧ q.txSh = s.tx.txSh := by
  have he : ∀ (bs : List Byte) (u : State),
      ∃ (q : TxPath) (h : History), (u.enqueueAll bs).1 = { u with tx := q, hist := h } ∧ q.txSh = u.tx.txSh := by
    intro bs
    induction bs with
    | nil => exact fun u => ⟨u.tx, u.hist, rfl, rfl⟩
    | cons b bs ih =>
      intro u
      simp only [State.enqueueAll, State.enqueue]
      split
      · exact ih u
      · obtain ⟨q, h, e, e'⟩ := ih (u.pushTx b)
        exact ⟨q, h, by rw [e]; rfl, e'⟩
  obtain ⟨q, h, e, e'⟩ := he f.bytes s
  refine ⟨(State.flushTx { s with tx := q, hist := h }).tx, h, ?_, e'⟩
  simp only [transmitFrame, e]
  rfl

@[simp] theorem frameQueued_cfg (f : Frame) (s : State) : (s.frameQueued f).cfg = s.cfg := rfl
@[simp] theorem frameQueued_drv (f : Frame) (s : State) : (s.frameQueued f).drv = s.drv := rfl
@[simp] theorem frameQueued_sqr (f : Frame) (s : State) : (s.frameQueued f).sqr = s.sqr := rfl
@[simp] theorem frameQueued_csr (f : Frame) (s : State) : (s.frameQueued f).csr = s.csr := rfl
@[simp] theorem frameQueued_lnk (f : Frame) (s : State) : (s.frameQueued f).lnk = s.lnk := rfl
@[simp] theorem frameQueued_rx (f : Frame) (s : State) : (s.frameQueued f).rx = s.rx := rfl
@[simp] theorem frameQueued_res (f : Frame) (s : State) : (s.frameQueued f).res = s.res := rfl
@[simp] theorem frameQueued_env (f : Frame) (s : State) : (s.frameQueued f).env = s.env := rfl

/-- The flush never lengthens `txq`. -/
theorem frameQueued_txq_le (f : Frame) (s : State) (h : s.tx.txq.length ≤ s.cfg.cap) :
    (s.frameQueued f).tx.txq.length ≤ s.cfg.cap := by
  simp [State.frameQueued]
  omega

/-- Where there is room for a frame, the queues hold the same bytes before and after it but for those 4. -/
theorem frameQueued_room (f : Frame) (s : State) (h : s.tx.txq.length + 4 ≤ s.cfg.cap) :
    (s.frameQueued f).hist.enqueued = s.hist.enqueued ++ f.bytes := by
  have : f.bytes.take (s.cfg.cap - s.tx.txq.length) = f.bytes :=
    List.take_of_length_le (by simp [Frame.bytes]; omega)
  simp [State.frameQueued, this]

theorem pollRx_eq (s : State) : s.pollRx = s.polled := rfl

theorem takeRx_all (s : State) : s.takeRx s.rx.rxq.length = s.drained := by
  simp [State.takeRx, State.drained]

@[simp] theorem polled_cfg (s : State) : s.polled.cfg = s.cfg := rfl
@[simp] theorem polled_drv (s : State) : s.polled.drv = s.drv := rfl
@[simp] theorem polled_sqr (s : State) : s.polled.sqr = s.sqr := rfl
@[simp] theorem polled_csr (s : State) : s.polled.csr = s.csr := rfl
@[simp] theorem polled_lnk (s : State) : s.polled.lnk = s.lnk := rfl
@[simp] theorem polled_tx (s : State) : s.polled.tx = s.tx := rfl
@[simp] theorem polled_res (s : State) : s.polled.res = s.res := rfl
@[simp] theorem polled_hist (s : State) : s.polled.hist = s.hist := rfl
@[simp] theorem polled_env (s : State) : s.polled.env = s.env := rfl
@[simp] theorem drained_cfg (s : State) : s.drained.cfg = s.cfg := rfl
@[simp] theorem drained_drv (s : State) : s.drained.drv = s.drv := rfl
@[simp] theorem drained_sqr (s : State) : s.drained.sqr = s.sqr := rfl
@[simp] theorem drained_csr (s : State) : s.drained.csr = s.csr := rfl
@[simp] theorem drained_lnk (s : State) : s.drained.lnk = s.lnk := rfl
@[simp] theorem drained_tx (s : State) : s.drained.tx = s.tx := rfl
@[simp] theorem drained_rx (s : State) : s.drained.rx = { s.rx with rxq := [] } := rfl
@[simp] theorem drained_res (s : State) : s.drained.res = s.res := rfl
@[simp] theorem drained_env (s : State) : s.drained.env = s.env := rfl

/-! ## SEND -/

theorem predicted_eq (c : Command) (ch : Byte) (s : State) (hw : isWireCommand c) (hc : 1 ≤ ch.toNat) :
    predicted (commandCode c) ch s = s.predictedFor c ch := by
  have h0 := ne_zero_of_one_le hc
  simp [predicted, State.predictedFor, State.setRelay, State.setLastChannel, State.relay, h0, predict_commandCode c _ hw]

/-! ## Waits -/

/-- At every legal clock a millisecond has cycles, so a wait of some milliseconds has some (00_scope.md R6). -/
theorem answerWaitCycles_ne_zero (s : State) (h : s.cfg.legal) (hw : s.answerWaitMs ≠ 0) : s.answerWaitCycles ≠ 0 := by
  have h1 : 1843200 ≤ s.cfg.clkHz := by
    obtain ⟨-, -, -, -, -, -, -, -, h1, -⟩ := h
    exact h1
  have hc : cycPerMs s.cfg ≠ 0 := by
    unfold cycPerMs
    omega
  exact Nat.mul_ne_zero hw hc

/-- `timer` is wide enough for the longest wait (10_state.md R26). -/
theorem longestWait_lt (c : Config) : longestWait c < 2 ^ timerWidth c := Nat.le_pow_clog (by decide) _

/-- The open retry delay fits in `timer` (10_state.md R26). -/
theorem cycOpenRetry_lt (c : Config) : cycOpenRetry c < 2 ^ timerWidth c :=
  lt_of_le_of_lt (le_max_left _ _) (longestWait_lt c)

/-- Every answer wait fits in `timer` (10_state.md R26, R34). -/
theorem answerWaitCycles_lt (s : State) : s.answerWaitCycles < 2 ^ timerWidth s.cfg := by
  have hm : s.answerWaitMs ≤ 65535 := by
    have h1 := s.csr.waitHi.isLt
    have h2 := s.csr.waitLo.isLt
    unfold State.answerWaitMs
    omega
  exact lt_of_le_of_lt ((Nat.mul_le_mul_right _ hm).trans (le_max_right _ _)) (longestWait_lt s.cfg)

/-! ## A SEND's wire commands -/

/-- What a SEND of a wire command does up to its result or its wait (43_protocol_driver.md R220 L2 to L13). -/
theorem sendFrom_wire (c : Command) (ch : Byte) (s : State) (hw : isWireCommand c) (h1 : 1 ≤ ch.toNat)
    (hN : ch.toNat ≤ s.cfg.channels) (hq : s.tx.txq.length ≤ s.cfg.cap)
    (hz : s.answerWaitMs ≠ 0 → s.answerWaitCycles ≠ 0) :
    sendFrom (commandCode c) ch s =
      if ¬ s.roomForFrame then (s.sentFor c ch, some (OpResult.error .noSend))
      else if ¬ isCheckCommand c then (s.sentFor c ch, some (OpResult.value 0#16))
      else if s.answerWaitMs = 0 then (s.sentFor c ch, some (OpResult.error .noRecv))
      else ((s.sentFor c ch).startWait .sendWait s.answerWaitCycles, none) := by
  have hv : s.validChannel ch = true := by simp [h1, hN]
  have ho : sendOut (commandCode c) ch s = (s.sentFor c ch, decide s.roomForFrame) := by
    rw [sendOut, predicted_eq c ch s hw h1, transmitFrame_eq _ _ (by exact hq), commandCode_wireCode]
    rfl
  simp only [sendFrom, hv, ho, commandCode_lt c hw, isCheckType_commandCode]
  by_cases hm : s.answerWaitMs = 0
  · by_cases hr : s.roomForFrame <;> by_cases hk : isCheckCommand c <;> simp [hr, hk, hm]
  · by_cases hr : s.roomForFrame <;> by_cases hk : isCheckCommand c <;> simp [hr, hk, hm, hz hm]

/-- SEND's operand errors, in their order (43_protocol_driver.md R220 L2, L3). -/
theorem sendFrom_badChannel (cmd : BitVec 4) (ch : Byte) (s : State) (h : ch.toNat < 1 ∨ s.cfg.channels < ch.toNat) :
    sendFrom cmd ch s = (s, some (OpResult.error .invChan)) := by
  have hv : s.validChannel ch = false := by
    rw [← Bool.not_eq_true, validChannel_iff]
    omega
  simp [sendFrom, hv]

theorem sendFrom_notWire (cmd : BitVec 4) (ch : Byte) (s : State) (h1 : 1 ≤ ch.toNat) (hN : ch.toNat ≤ s.cfg.channels)
    (h6 : 6 ≤ cmd.toNat) : sendFrom cmd ch s = (s, some (OpResult.error .wrngCom)) := by
  have hv : s.validChannel ch = true := by simp [h1, hN]
  simp [sendFrom, hv, h6]

/-! ## RECV -/

/-- The checks on a window write at most the register of `lastChannel`, and that only with WRNGSTA; the result WRNGSTA says that the
register held the other value and holds the reported one now, a reported state says that the register holds it
(43_protocol_driver.md R222 M6 to M11). -/
theorem evalWindow_spec (f : Frame) (s : State) :
    (∃ e, e ≠ ErrCode.wrngSta ∧ e ≠ .no ∧ e ≠ .noRecv ∧ evalWindow f s = (s, OpResult.error e)) ∨
    (f.f1 = s.drv.lastChannel ∧ f.f1 ≠ 0#8 ∧ s.relay f.f1 = !(f.f2 == 1#8) ∧
      evalWindow f s = (s.setRelay f.f1 (f.f2 == 1#8), OpResult.error .wrngSta)) ∨
    (f.f1 = s.drv.lastChannel ∧ f.f1 ≠ 0#8 ∧ s.relay f.f1 = (f.f2 == 1#8) ∧
      evalWindow f s = (s, OpResult.command (reportedCommand (f.f2 == 1#8)))) := by
  unfold evalWindow
  split
  · exact .inl ⟨_, by decide, by decide, by decide, rfl⟩
  split
  · exact .inl ⟨_, by decide, by decide, by decide, rfl⟩
  rename_i hr
  have hr1 : f.f1 = s.drv.lastChannel := by
    by_contra h
    exact hr (.inr h)
  have hr0 : f.f1 ≠ 0#8 := by
    rw [hr1]
    exact fun h => hr (.inl h)
  split
  · exact .inl ⟨_, by decide, by decide, by decide, rfl⟩
  split
  · rename_i hs
    refine .inr (.inl ⟨hr1, hr0, ?_, rfl⟩)
    revert hs
    cases (f.f2 == 1#8) <;> cases s.relay f.f1 <;> simp
  · rename_i hs
    refine .inr (.inr ⟨hr1, hr0, ?_, rfl⟩)
    revert hs
    cases (f.f2 == 1#8) <;> cases s.relay f.f1 <;> simp

/-- The checks on a window leave every part of the state but `relayState` as it is. -/
theorem evalWindow_frame (f : Frame) (s : State) :
    (evalWindow f s).1 = { s with drv := { s.drv with relayState := (evalWindow f s).1.drv.relayState } } ∧
    (evalWindow f s).1.drv.relayState.length = s.drv.relayState.length := by
  rcases evalWindow_spec f s with ⟨e, -, -, -, h⟩ | ⟨-, -, -, h⟩ | ⟨-, -, -, h⟩
  · simp [h]
  · simp only [h, State.setRelay]
    refine ⟨trivial, ?_⟩
    split <;> simp
  · simp [h]

/-- RECV below 4 bytes keeps what was polled (43_protocol_driver.md R222 M3). -/
theorem recvFrom_short (s : State) (h : s.polled.rx.rxq.length < 4) :
    recvFrom s = (s.polled, OpResult.error .noRecv) := by
  simp [recvFrom, pollRx_eq, h]

/-- RECV with at least 4 bytes empties `rxq` and judges the newest 4 (43_protocol_driver.md R222 M4 to M11). -/
theorem recvFrom_window (s : State) (h : ¬ s.polled.rx.rxq.length < 4) :
    recvFrom s = evalWindow (windowOf s.polled.rx.rxq) s.polled.drained := by
  simp [recvFrom, pollRx_eq, h, takeRx_all]

/-- RECV writes nothing but `relayState`, the receive queues and the taken bytes (43_protocol_driver.md R222 M2 to M11). -/
theorem recvFrom_frame (s : State) :
    ∃ (d : Driver) (q : RxPath) (h : History), (recvFrom s).1 = { s with drv := d, rx := q, hist := h } ∧
      d.lastChannel = s.drv.lastChannel ∧ d.relayState.length = s.drv.relayState.length := by
  by_cases hs : s.polled.rx.rxq.length < 4
  · exact ⟨s.drv, s.polled.rx, s.hist, by rw [recvFrom_short s hs]; rfl, rfl, rfl⟩
  · have e := evalWindow_frame (windowOf s.polled.rx.rxq) s.polled.drained
    refine ⟨(recvFrom s).1.drv, s.polled.drained.rx, s.polled.drained.hist, ?_, ?_, ?_⟩ <;>
      rw [recvFrom_window s hs, e.1] <;> first | rfl | exact e.2

/-- The end of a SEND's wait is the end of the RECV it calls (43_protocol_driver.md R220 L14, L15). -/
theorem answerWaitEnds_send (s : State) (h : s.sqr.initActive = false) :
    answerWaitEnds s = (recvFrom s.waitOver).1.finish (recvFrom s.waitOver).2 := by
  obtain ⟨d, q, l, e, -, -⟩ := recvFrom_frame s.waitOver
  have hi : (recvFrom s.waitOver).1.sqr.initActive = false := by
    rw [e]
    exact h
  simp [answerWaitEnds, hi]

/-- The end of a wait of INIT: what RECV answered is counted, and the loop goes on after `init_ch` (43_protocol_driver.md R228). -/
theorem answerWaitEnds_init (s : State) (h : s.sqr.initActive = true) :
    answerWaitEnds s =
      initLoop (s.cfg.channels - s.sqr.initCh.toNat) ((recvFrom s.waitOver).1.countErr (recvFrom s.waitOver).2) := by
  obtain ⟨d, q, l, e, -, -⟩ := recvFrom_frame s.waitOver
  have hi : (recvFrom s.waitOver).1.sqr = s.waitOver.sqr := by rw [e]
  have hc : (recvFrom s.waitOver).1.cfg = s.cfg := by
    rw [e]
    rfl
  have ha : s.waitOver.sqr.initActive = true := h
  simp only [answerWaitEnds, hi, hc, ha, if_true]
  rfl

/-- The window of a queue that ends in 4 bytes is these 4 (43_protocol_driver.md R224). -/
theorem windowOf_append (old : List Byte) (f : Frame) : windowOf (old ++ [f.f0, f.f1, f.f2, f.f3]) = f := by
  simp [windowOf]

/-- SEND up to its result or its wait writes nothing but the driver's registers, the transmit queues, the enqueued bytes and, where it
waits, `seq` and `timer` (43_protocol_driver.md R220 L2 to L13), where a wait of some milliseconds has some cycles. -/
theorem sendFrom_frame (cmd : BitVec 4) (ch : Byte) (s : State) (hz : s.answerWaitMs ≠ 0 → s.answerWaitCycles ≠ 0) :
    (sendFrom cmd ch s).1.cfg = s.cfg ∧ (sendFrom cmd ch s).1.csr = s.csr ∧ (sendFrom cmd ch s).1.lnk = s.lnk ∧
    (sendFrom cmd ch s).1.rx = s.rx ∧ (sendFrom cmd ch s).1.res = s.res ∧ (sendFrom cmd ch s).1.env = s.env ∧
    (sendFrom cmd ch s).1.drv.relayState.length = s.drv.relayState.length ∧
    (sendFrom cmd ch s).1.tx.txSh = s.tx.txSh ∧
    ((sendFrom cmd ch s).2 ≠ none → (sendFrom cmd ch s).1.sqr = s.sqr) ∧
    ((sendFrom cmd ch s).2 = none →
      (sendFrom cmd ch s).1.sqr = { s.sqr with seq := .sendWait, timer := s.answerWaitCycles }) := by
  have ht : ∃ (q : TxPath) (h : History),
      (sendOut cmd ch s).1 = { predicted cmd ch s with tx := q, hist := h } ∧ q.txSh = s.tx.txSh :=
    transmitFrame_frame _ _
  obtain ⟨q, h, e, e'⟩ := ht
  have hl : (predicted cmd ch s).drv.relayState.length = s.drv.relayState.length := by
    simp only [predicted, State.setRelay, State.setLastChannel]
    split <;> simp
  have hp : predicted cmd ch s = { s with drv := (predicted cmd ch s).drv } := rfl
  unfold sendFrom
  split
  · simp
  split
  · simp
  dsimp only
  generalize (sendOut cmd ch s).2 = b
  simp only [e]
  rw [hp]
  split
  · exact ⟨rfl, rfl, rfl, rfl, rfl, rfl, hl, e', fun _ => rfl, fun h => by cases h⟩
  split
  · exact ⟨rfl, rfl, rfl, rfl, rfl, rfl, hl, e', fun _ => rfl, fun h => by cases h⟩
  split
  · exact ⟨rfl, rfl, rfl, rfl, rfl, rfl, hl, e', fun _ => rfl, fun h => by cases h⟩
  rename_i hw
  rw [if_neg (hz hw)]
  exact ⟨rfl, rfl, rfl, rfl, rfl, rfl, hl, e', fun h => absurd rfl h, fun _ => rfl⟩

/-! ## The line -/

@[simp] theorem length_dataBitsOf (fmt b : Byte) : (dataBitsOf fmt b).length = dataBits fmt := by
  simp [dataBitsOf]

theorem dataBits_le (fmt : Byte) : dataBits fmt ≤ 8 := by
  have := (fmt.extractLsb' 0 2).isLt
  unfold dataBits
  omega

/-- With 8 data bits the line lets every byte through whole (70_reset_and_hazards.md R320). -/
theorem lineByte_of_eight {fmt : Byte} (h : dataBits fmt = 8) (b : Byte) : lineByte fmt b = b := by
  apply BitVec.eq_of_toNat_eq
  have hb := b.isLt
  simp [lineByte, h]
  omega

/-- What has come over the line once comes over it unchanged. -/
@[simp] theorem lineByte_idem (fmt b : Byte) : lineByte fmt (lineByte fmt b) = lineByte fmt b := by
  apply BitVec.eq_of_toNat_eq
  have hm : b.toNat % 2 ^ dataBits fmt < 2 ^ dataBits fmt := Nat.mod_lt _ (Nat.two_pow_pos _)
  have hb : b.toNat % 2 ^ dataBits fmt < 256 := lt_of_le_of_lt (Nat.mod_le _ _) b.isLt
  simp [lineByte, Nat.mod_eq_of_lt hb]

end Sys2Proof.Machine
end

