-- ==== Sys2Proof/Laws/Memory.lean ====
section
/-!
SUPPORT. Every operation on the four queues keeps their bounds (spec/20_memory.md R77), and the state after reset has them.
-/

namespace Sys2Proof.Machine

/-- The queues after reset are within their bounds, for every choice of parameters. -/
theorem memory_wf_resetWith (c : Config) : Memory.wf (State.resetWith c) := by
  simp [Memory.wf, State.resetWith]

/-- The memory of the state after reset has its form. -/
theorem memory_wf_reset : Memory.wf State.reset := memory_wf_resetWith _

theorem memory_wf_pushTx (b : Byte) (s : State) (h : Memory.wf s) (room : s.tx.txq.length ≠ s.cfg.cap) :
    Memory.wf (s.pushTx b) := by
  obtain ⟨h1, h2, h3, h4⟩ := h
  refine ⟨?_, h2, h3, h4⟩
  simp [State.pushTx]
  omega

theorem memory_wf_flushTx (s : State) (h : Memory.wf s) : Memory.wf s.flushTx := by
  obtain ⟨h1, h2, h3, h4⟩ := h
  refine ⟨?_, h2, ?_, h4⟩
  · simp [State.flushTx]
    omega
  · simp [State.flushTx, State.flushCount]
    omega

theorem memory_wf_pollRx (s : State) (h : Memory.wf s) : Memory.wf s.pollRx := by
  obtain ⟨h1, h2, h3, h4⟩ := h
  refine ⟨h1, ?_, h3, ?_⟩
  · simp [State.pollRx, State.pollCount]
    omega
  · simp [State.pollRx]
    omega

theorem memory_wf_takeRx (n : Nat) (s : State) (h : Memory.wf s) : Memory.wf (s.takeRx n) := by
  obtain ⟨h1, h2, h3, h4⟩ := h
  refine ⟨h1, ?_, h3, h4⟩
  simp [State.takeRx]
  omega

theorem memory_wf_txStartStep (s : State) (h : Memory.wf s) : Memory.wf (txStartStep s) := by
  unfold txStartStep
  split
  · rename_i b rest _ _ e
    obtain ⟨h1, h2, h3, h4⟩ := h
    refine ⟨h1, h2, ?_, h4⟩
    rw [e] at h3
    simp at h3 ⊢
    omega
  · exact h

theorem memory_wf_txDoneStep (s : State) (h : Memory.wf s) : Memory.wf (txDoneStep s) := by
  unfold txDoneStep
  split
  · exact h
  · exact h

theorem memory_wf_stageByte (b : Byte) (s : State) (h : Memory.wf s) (depth : 1 ≤ s.cfg.rxsDepth) :
    Memory.wf (stageByte b s) := by
  obtain ⟨h1, h2, h3, h4⟩ := h
  unfold stageByte
  split
  · rename_i e
    refine ⟨h1, h2, h3, ?_⟩
    simp [e]
    omega
  · refine ⟨h1, h2, h3, ?_⟩
    simp
    omega

/-- Every move keeps the bounds of the queues and the parameters. -/
theorem memory_wf_move (s t : State) (m : Move s t) (h : Memory.wf s ∧ 1 ≤ s.cfg.rxsDepth) :
    Memory.wf t ∧ 1 ≤ t.cfg.rxsDepth := by
  obtain ⟨hw, hd⟩ := h
  cases m with
  | push b room => exact ⟨memory_wf_pushTx b s hw room, hd⟩
  | flush => exact ⟨memory_wf_flushTx s hw, hd⟩
  | poll => exact ⟨memory_wf_pollRx s hw, hd⟩
  | take n => exact ⟨memory_wf_takeRx n s hw, hd⟩
  | txStart =>
    refine ⟨memory_wf_txStartStep s hw, ?_⟩
    unfold txStartStep
    split <;> exact hd
  | txDone =>
    refine ⟨memory_wf_txDoneStep s hw, ?_⟩
    unfold txDoneStep
    split <;> exact hd
  | stage b _ =>
    refine ⟨memory_wf_stageByte b s hw hd, ?_⟩
    unfold stageByte
    split <;> exact hd
  | control | link | log | env | csr | relay | lastChannel | shift | drop | record | rxShift | sync => exact ⟨hw, hd⟩

end Sys2Proof.Machine
end

