-- ==== Sys2Proof/Laws/PerInstr.lean ====
section
/-!
SUPPORT. The family TableRow: the encoding of a well-formed instruction has its row's width, and its row's match under its row's mask
(spec/30_encoding.md R109; spec/opcode_table.json).
-/

namespace Sys2Proof.Laws

/-- What the opcode table says of a row: its width in bits, its mask, its match. -/
structure TableRow where
  width : Nat
  mask : Nat
  value : Nat
  deriving DecidableEq, Repr

/-- The row of an instruction in spec/opcode_table.json. -/
def TableRow.row : Instr → TableRow
  | .reserved0 => { width := 16, mask := 0xF000, value := 0x0000 }
  | .cfgwr _ _ => { width := 16, mask := 0xF000, value := 0x1000 }
  | .openLink => { width := 16, mask := 0xF000, value := 0x2000 }
  | .enq _ => { width := 16, mask := 0xF000, value := 0x3000 }
  | .flush => { width := 16, mask := 0xF000, value := 0x4000 }
  | .poll => { width := 16, mask := 0xF000, value := 0x5000 }
  | .deq => { width := 16, mask := 0xF000, value := 0x6000 }
  | .pendw => { width := 16, mask := 0xF000, value := 0x7000 }
  | .pendr => { width := 16, mask := 0xF000, value := 0x8000 }
  | .init => { width := 16, mask := 0xF000, value := 0x9000 }
  | .send _ _ => { width := 16, mask := 0xF000, value := 0xA000 }
  | .sendOff _ => { width := 16, mask := 0xFF00, value := 0xA000 }
  | .sendOn _ => { width := 16, mask := 0xFF00, value := 0xA100 }
  | .sendOffCheck _ => { width := 16, mask := 0xFF00, value := 0xA200 }
  | .sendOnCheck _ => { width := 16, mask := 0xFF00, value := 0xA300 }
  | .sendNegateCheck _ => { width := 16, mask := 0xFF00, value := 0xA400 }
  | .sendCheck _ => { width := 16, mask := 0xFF00, value := 0xA500 }
  | .sendNone _ => { width := 16, mask := 0xFF00, value := 0xA600 }
  | .sendError _ => { width := 16, mask := 0xFF00, value := 0xA700 }
  | .sendReserved _ _ => { width := 16, mask := 0xF800, value := 0xA800 }
  | .recv => { width := 16, mask := 0xF000, value := 0xB000 }
  | .compose _ _ => { width := 16, mask := 0xF000, value := 0xC000 }
  | .cmd2bool _ => { width := 16, mask := 0xF000, value := 0xD000 }
  | .rdstate _ => { width := 16, mask := 0xF000, value := 0xE000 }
  | .rdcsr _ => { width := 16, mask := 0xF000, value := 0xF000 }
  | .frameOff _ _ => { width := 32, mask := 0xFF00FF00, value := 0xA0000000 }
  | .frameOn _ _ => { width := 32, mask := 0xFF00FF00, value := 0xA0000100 }
  | .frameOffCheck _ _ => { width := 32, mask := 0xFF00FF00, value := 0xA0000200 }
  | .frameOnCheck _ _ => { width := 32, mask := 0xFF00FF00, value := 0xA0000300 }
  | .frameNegateCheck _ _ => { width := 32, mask := 0xFF00FF00, value := 0xA0000400 }
  | .frameCheck _ _ => { width := 32, mask := 0xFF00FF00, value := 0xA0000500 }
  | .fbOff _ _ => { width := 32, mask := 0xFF00FF00, value := 0xA0000000 }
  | .fbOn _ _ => { width := 32, mask := 0xFF00FF00, value := 0xA0000100 }

/-- How many bits a code word has. -/
def TableRow.codeWidth : CodeWord → Nat
  | .hostCmd _ => 16
  | .relayFrame _ _ => 32

/-- A code word as a number. -/
def TableRow.codeNumber : CodeWord → Nat
  | .hostCmd w => w.toNat
  | .relayFrame _ w => w.toNat

/-- The encoding of a well-formed instruction is a word of its row. -/
def TableRow.Statement (i : Instr) : Prop :=
  i.wellFormed = true →
    TableRow.codeWidth (encode i) = (TableRow.row i).width ∧
      TableRow.codeNumber (encode i) &&& (TableRow.row i).mask = (TableRow.row i).value

/-- The mask of the rows that fix `op`. -/
theorem hostWord_and_op (op a : BitVec 4) (d : Byte) : (hostWord op a d).toNat &&& 0xF000 = (hostWord op 0#4 0#8).toNat := by
  have h : (op ++ a ++ d) &&& (0xF#4 ++ 0#4 ++ 0#8) = op ++ 0#4 ++ 0#8 := by
    rw [BitVec.and_append, BitVec.and_append]
    congr 2
    · exact BitVec.and_allOnes
    · simp
    · simp
  exact (BitVec.toNat_and _ _).symm.trans (congrArg BitVec.toNat h)

/-- The mask of the rows that fix `op` and `a`. -/
theorem hostWord_and_opA (op a : BitVec 4) (d : Byte) : (hostWord op a d).toNat &&& 0xFF00 = (hostWord op a 0#8).toNat := by
  have h : (op ++ a ++ d) &&& (0xF#4 ++ 0xF#4 ++ 0#8) = op ++ a ++ 0#8 := by
    rw [BitVec.and_append, BitVec.and_append]
    congr 2
    · exact BitVec.and_allOnes
    · exact BitVec.and_allOnes
    · simp
  exact (BitVec.toNat_and _ _).symm.trans (congrArg BitVec.toNat h)

/-- The mask of the SEND.RESERVED row. -/
theorem hostWord_and_opTop (op a : BitVec 4) (d : Byte) (h8 : 8 ≤ a.toNat) :
    (hostWord op a d).toNat &&& 0xF800 = (hostWord op 8#4 0#8).toNat := by
  have ha : a &&& 8#4 = 8#4 := by
    revert h8
    revert a
    decide
  have h : (op ++ a ++ d) &&& (0xF#4 ++ 8#4 ++ 0#8) = op ++ 8#4 ++ 0#8 := by
    rw [BitVec.and_append, BitVec.and_append, ha]
    congr 2
    · exact BitVec.and_allOnes
    · simp
  exact (BitVec.toNat_and _ _).symm.trans (congrArg BitVec.toNat h)

/-- The mask of the frame rows. -/
theorem frame_and_row (a b c d : Byte) :
    (Frame.toWord { f0 := a, f1 := b, f2 := c, f3 := d }).toNat &&& 0xFF00FF00 =
      (Frame.toWord { f0 := a, f1 := 0#8, f2 := c, f3 := 0#8 }).toNat := by
  have h : (a ++ b ++ c ++ d) &&& (0xFF#8 ++ 0#8 ++ 0xFF#8 ++ 0#8) = a ++ 0#8 ++ c ++ 0#8 := by
    rw [BitVec.and_append, BitVec.and_append, BitVec.and_append]
    congr 3
    · exact BitVec.and_allOnes
    · simp
    · exact BitVec.and_allOnes
    · simp
  exact (BitVec.toNat_and _ _).symm.trans (congrArg BitVec.toNat h)

theorem TableRow.reserved0 : TableRow.Statement .reserved0 :=
  fun _ => ⟨rfl, hostWord_and_op _ _ _⟩

theorem TableRow.cfgwr (a : BitVec 4) (v : Byte) : TableRow.Statement (.cfgwr a v) :=
  fun _ => ⟨rfl, hostWord_and_op _ _ _⟩

theorem TableRow.openLink : TableRow.Statement .openLink :=
  fun _ => ⟨rfl, hostWord_and_op _ _ _⟩

theorem TableRow.enq (b : Byte) : TableRow.Statement (.enq b) :=
  fun _ => ⟨rfl, hostWord_and_op _ _ _⟩

theorem TableRow.flush : TableRow.Statement .flush :=
  fun _ => ⟨rfl, hostWord_and_op _ _ _⟩

theorem TableRow.poll : TableRow.Statement .poll :=
  fun _ => ⟨rfl, hostWord_and_op _ _ _⟩

theorem TableRow.deq : TableRow.Statement .deq :=
  fun _ => ⟨rfl, hostWord_and_op _ _ _⟩

theorem TableRow.pendw : TableRow.Statement .pendw :=
  fun _ => ⟨rfl, hostWord_and_op _ _ _⟩

theorem TableRow.pendr : TableRow.Statement .pendr :=
  fun _ => ⟨rfl, hostWord_and_op _ _ _⟩

theorem TableRow.init : TableRow.Statement .init :=
  fun _ => ⟨rfl, hostWord_and_op _ _ _⟩

theorem TableRow.send (cmd : BitVec 4) (ch : Byte) : TableRow.Statement (.send cmd ch) :=
  fun _ => ⟨rfl, hostWord_and_op _ _ _⟩

theorem TableRow.sendOff (ch : Byte) : TableRow.Statement (.sendOff ch) :=
  fun _ => ⟨rfl, hostWord_and_opA _ _ _⟩

theorem TableRow.sendOn (ch : Byte) : TableRow.Statement (.sendOn ch) :=
  fun _ => ⟨rfl, hostWord_and_opA _ _ _⟩

theorem TableRow.sendOffCheck (ch : Byte) : TableRow.Statement (.sendOffCheck ch) :=
  fun _ => ⟨rfl, hostWord_and_opA _ _ _⟩

theorem TableRow.sendOnCheck (ch : Byte) : TableRow.Statement (.sendOnCheck ch) :=
  fun _ => ⟨rfl, hostWord_and_opA _ _ _⟩

theorem TableRow.sendNegateCheck (ch : Byte) : TableRow.Statement (.sendNegateCheck ch) :=
  fun _ => ⟨rfl, hostWord_and_opA _ _ _⟩

theorem TableRow.sendCheck (ch : Byte) : TableRow.Statement (.sendCheck ch) :=
  fun _ => ⟨rfl, hostWord_and_opA _ _ _⟩

theorem TableRow.sendNone (ch : Byte) : TableRow.Statement (.sendNone ch) :=
  fun _ => ⟨rfl, hostWord_and_opA _ _ _⟩

theorem TableRow.sendError (ch : Byte) : TableRow.Statement (.sendError ch) :=
  fun _ => ⟨rfl, hostWord_and_opA _ _ _⟩

theorem TableRow.sendReserved (code : BitVec 4) (ch : Byte) : TableRow.Statement (.sendReserved code ch) :=
  fun h => ⟨rfl, hostWord_and_opTop _ _ _ (by simpa [Instr.wellFormed] using h)⟩

theorem TableRow.recv : TableRow.Statement .recv :=
  fun _ => ⟨rfl, hostWord_and_op _ _ _⟩

theorem TableRow.compose (r fb : Bool) : TableRow.Statement (.compose r fb) :=
  fun _ => ⟨rfl, hostWord_and_op _ _ _⟩

theorem TableRow.cmd2bool (cmd : BitVec 4) : TableRow.Statement (.cmd2bool cmd) :=
  fun _ => ⟨rfl, hostWord_and_op _ _ _⟩

theorem TableRow.rdstate (ch : Byte) : TableRow.Statement (.rdstate ch) :=
  fun _ => ⟨rfl, hostWord_and_op _ _ _⟩

theorem TableRow.rdcsr (a : BitVec 4) : TableRow.Statement (.rdcsr a) :=
  fun _ => ⟨rfl, hostWord_and_op _ _ _⟩

theorem TableRow.frameOff (ch ck : Byte) : TableRow.Statement (.frameOff ch ck) :=
  fun _ => ⟨rfl, frame_and_row _ _ _ _⟩

theorem TableRow.frameOn (ch ck : Byte) : TableRow.Statement (.frameOn ch ck) :=
  fun _ => ⟨rfl, frame_and_row _ _ _ _⟩

theorem TableRow.frameOffCheck (ch ck : Byte) : TableRow.Statement (.frameOffCheck ch ck) :=
  fun _ => ⟨rfl, frame_and_row _ _ _ _⟩

theorem TableRow.frameOnCheck (ch ck : Byte) : TableRow.Statement (.frameOnCheck ch ck) :=
  fun _ => ⟨rfl, frame_and_row _ _ _ _⟩

theorem TableRow.frameNegateCheck (ch ck : Byte) : TableRow.Statement (.frameNegateCheck ch ck) :=
  fun _ => ⟨rfl, frame_and_row _ _ _ _⟩

theorem TableRow.frameCheck (ch ck : Byte) : TableRow.Statement (.frameCheck ch ck) :=
  fun _ => ⟨rfl, frame_and_row _ _ _ _⟩

theorem TableRow.fbOff (ch ck : Byte) : TableRow.Statement (.fbOff ch ck) :=
  fun _ => ⟨rfl, frame_and_row _ _ _ _⟩

theorem TableRow.fbOn (ch ck : Byte) : TableRow.Statement (.fbOn ch ck) :=
  fun _ => ⟨rfl, frame_and_row _ _ _ _⟩

end Sys2Proof.Laws
end

