-- ==== Sys2Proof/Tests/Slice0.lean ====
section
/-!
SUPPORT. Tests. Expected values come from the vectors of spec/95_test_vectors.md (named vT1, vD1, ..), from the rule named, or are words
written out bit by bit from spec/30_encoding.md R101, R102, R107, R92, R93. At the end, a witness for the hypotheses of each statement.
-/

namespace Sys2Proof.Tests

open Sys2Proof.Machine

/-! ## Helpers -/

/-- The state an outcome leads to; the given state where there is none. -/
def nextOr (s : State) : Host.Outcome State Fault Refusal → State
  | .next t => t
  | .fault _ => s
  | .refused _ => s

/-- One instruction run. -/
def ran (i : Instr) (s : State) : State := nextOr s (exec i s)

/-- One command word run. -/
def ranWord (w : HostWord) (s : State) : State := ran (decodeHost w) s

/-- One step run. -/
def stepped (s : State) : State := nextOr s (step s)

/-- The result registers as `HOST_RES`. -/
def hostRes (s : State) : BitVec 24 := OpResult.toHostRes { cmd := s.res.cmd, err := s.res.err, val := s.res.val }

/-- Right after reset, the link OPEN. -/
def opened (c : Config) : State :=
  let s := State.resetWith c
  { s with lnk := { s.lnk with link := .opened } }

/-- The link state set. -/
def linked (l : Link) (s : State) : State := { s with lnk := { s.lnk with link := l } }

/-- The transmit queues set. -/
def withTx (q stage : List Byte) (s : State) : State := { s with tx := { s.tx with txq := q, txStage := stage } }

/-- The receive queues set. -/
def withRx (q stage : List Byte) (s : State) : State := { s with rx := { s.rx with rxq := q, rxStage := stage } }

/-- The driver's registers set. -/
def withDrv (rs : List Bool) (last : Byte) (s : State) : State :=
  { s with drv := { relayState := rs, lastChannel := last } }

/-- The answer wait set. -/
def withWait (hi lo : Byte) (s : State) : State := { s with csr := { s.csr with waitHi := hi, waitLo := lo } }

/-- The sequencer's state and timer set. -/
def withSeq (q : Seq) (n : Nat) (s : State) : State := { s with sqr := { s.sqr with seq := q, timer := n } }

/-- The start state of the RECV vectors vE1 to vE22: channel 6 is the last one and its register is true. -/
def lastSix (arrived : List Byte) : State :=
  withRx [] arrived (withDrv [false, false, false, false, false, true, false, false] 6#8 (opened Config.default))

/-! ## Well-formedness: one ill-formed term for each check -/

theorem test_illFormed_sendReserved : (Instr.sendReserved 7#4 1#8).wellFormed = false := by decide
theorem test_illFormed_frameOff : (Instr.frameOff 1#8 0xA2#8).wellFormed = false := by decide
theorem test_illFormed_frameOn : (Instr.frameOn 1#8 0xA3#8).wellFormed = false := by decide
theorem test_illFormed_frameOffCheck : (Instr.frameOffCheck 1#8 0xA2#8).wellFormed = false := by decide
theorem test_illFormed_frameOnCheck : (Instr.frameOnCheck 1#8 0xA5#8).wellFormed = false := by decide
theorem test_illFormed_frameNegateCheck : (Instr.frameNegateCheck 1#8 0xA4#8).wellFormed = false := by decide
theorem test_illFormed_frameCheck : (Instr.frameCheck 1#8 0x00#8).wellFormed = false := by decide
theorem test_illFormed_fbOff : (Instr.fbOff 6#8 0xA7#8).wellFormed = false := by decide
theorem test_illFormed_fbOn : (Instr.fbOn 6#8 0xA6#8).wellFormed = false := by decide

/-! ## Decoding: words written out from 30_encoding.md R101, R102, R107, R92, R93 -/

theorem test_decode_transport :
    decodeTableWord 16 0b0000111111111111 = some .reserved0 ∧
    decodeTableWord 16 0b0001000000000111 = some (.cfgwr 0#4 7#8) ∧
    decodeTableWord 16 0b0010000000000000 = some .openLink ∧
    decodeTableWord 16 0b0011000010100000 = some (.enq 0xA0#8) ∧
    decodeTableWord 16 0b0100101010111100 = some .flush ∧
    decodeTableWord 16 0b0101000000000000 = some .poll ∧
    decodeTableWord 16 0b0110000000000000 = some .deq ∧
    decodeTableWord 16 0b0111000000000000 = some .pendw ∧
    decodeTableWord 16 0b1000000000000000 = some .pendr ∧
    decodeTableWord 16 0b1111010100000000 = some (.rdcsr 5#4) := by decide

theorem test_decode_driver :
    decodeTableWord 16 0b1001000000000000 = some .init ∧
    decodeTableWord 16 0b1011000000000000 = some .recv ∧
    decodeTableWord 16 0b1100111101010101 = some (.compose true true) ∧
    decodeTableWord 16 0b1100000100000000 = some (.compose true false) ∧
    decodeTableWord 16 0b1101010100000000 = some (.cmd2bool 5#4) ∧
    decodeTableWord 16 0b1110000000000011 = some (.rdstate 3#8) := by decide

theorem test_decode_send :
    decodeTableWord 16 0b1010000000000001 = some (.sendOff 1#8) ∧
    decodeTableWord 16 0b1010000100000001 = some (.sendOn 1#8) ∧
    decodeTableWord 16 0b1010001000000010 = some (.sendOffCheck 2#8) ∧
    decodeTableWord 16 0b1010001100000110 = some (.sendOnCheck 6#8) ∧
    decodeTableWord 16 0b1010010000000010 = some (.sendNegateCheck 2#8) ∧
    decodeTableWord 16 0b1010010111111111 = some (.sendCheck 255#8) ∧
    decodeTableWord 16 0b1010011000000110 = some (.sendNone 6#8) ∧
    decodeTableWord 16 0b1010011100000110 = some (.sendError 6#8) ∧
    decodeTableWord 16 0b1010100000000110 = some (.sendReserved 8#4 6#8) ∧
    decodeTableWord 16 0b1010111100000110 = some (.sendReserved 15#4 6#8) := by decide

/-- The word of the generic SEND row selects its sub-form row too; the decoder answers the sub-form (30_encoding.md R109). -/
theorem test_decode_send_generic :
    encode (.send 3#4 6#8) = .hostCmd 0b1010001100000110#16 ∧ sendForm 3#4 6#8 = .sendOnCheck 6#8 := by decide

theorem test_decode_frame :
    decodeTableWord 32 0b10100000000001100000000010100110 = some (.frameOff 6#8 0xA6#8) ∧
    decodeTableWord 32 0b10100000000001100000000110100111 = some (.frameOn 6#8 0xA7#8) ∧
    decodeTableWord 32 0b10100000000001100000001010101000 = some (.frameOffCheck 6#8 0xA8#8) ∧
    decodeTableWord 32 0b10100000000001100000001110101001 = some (.frameOnCheck 6#8 0xA9#8) ∧
    decodeTableWord 32 0b10100000000001100000010010101010 = some (.frameNegateCheck 6#8 0xAA#8) ∧
    decodeTableWord 32 0b10100000000001100000010110101011 = some (.frameCheck 6#8 0xAB#8) := by decide

theorem test_decode_feedback :
    decode (.relayFrame .fromRelay 0b10100000000001100000000010100110#32) = .ok (.fbOff 6#8 0xA6#8) ∧
    decode (.relayFrame .fromRelay 0b10100000000001100000000110100111#32) = .ok (.fbOn 6#8 0xA7#8) := by decide

/-- Numbers that are no frame of their direction (30_encoding.md R91, R93, R99). -/
theorem test_decode_rejects :
    decode (.relayFrame .toRelay 0xA10101A3#32) = .error .badMarker ∧
    decode (.relayFrame .toRelay 0xA00606AC#32) = .error .badCommandCode ∧
    decode (.relayFrame .fromRelay 0xA00602A8#32) = .error .notAState ∧
    decodeTableWord 24 0 = none := by decide

/-- A frame without its own checksum selects no row (30_encoding.md R109); in a word of the opcode table a checksum byte of 0 is not
given and is computed (log entry 9). -/
theorem test_decode_checksum :
    decode (.relayFrame .toRelay 0xA0060100#32) = .error .badChecksum ∧
    decode (.relayFrame .fromRelay 0xA00601A8#32) = .error .badChecksum ∧
    decodeTableWord 32 0xA0060100 = some (.frameOn 6#8 0xA7#8) ∧ decodeTableWord 32 0xA00601A8 = none := by decide

/-! ## Framer: vF2, vF5, vF8, vF10, vF15, vF17, vF24, vF26 -/

theorem test_checksum : cks 0xA0#8 6#8 3#8 = 0xA9#8 ∧ cks 0xA0#8 0x60#8 0#8 = 0#8 ∧ cks 0xA0#8 0xFF#8 0xFF#8 = 0x9E#8 := by
  decide

theorem test_valid :
    (Frame.valid { f0 := 0xA1#8, f1 := 1#8, f2 := 1#8, f3 := 0xA2#8 }) = false ∧
    (Frame.valid { f0 := 0xA0#8, f1 := 1#8, f2 := 1#8, f3 := 0xA3#8 }) = false ∧
    (Frame.valid { f0 := 0xA0#8, f1 := 2#8, f2 := 0#8, f3 := 0xA2#8 }) = true ∧
    (mkFrame 6#8 3#8).bytes = [0xA0#8, 6#8, 3#8, 0xA9#8] ∧ (mkFrame 8#8 5#8).bytes = [0xA0#8, 8#8, 5#8, 0xAD#8] := by decide

/-! ## Transport -/

/-- vK16. -/
theorem test_reserved0 :
    hostRes (ranWord 0x0FFF#16 (opened Config.default)) = 0x7A0000#24 ∧
    hostRes (ranWord 0x0000#16 (linked .fatal State.reset)) = 0x790000#24 := by decide

/-- vT1. -/
theorem test_enq :
    hostRes (ranWord 0x30A0#16 (opened Config.default)) = 0x600001#24 ∧
    (ranWord 0x30A0#16 (opened Config.default)).tx.txq = [0xA0#8] := by decide

/-- vT3, small configuration. -/
theorem test_enq_full :
    hostRes (ranWord 0x3066#16 (withTx (List.replicate 8 0#8) [] (opened Config.small))) = 0x600000#24 ∧
    (ranWord 0x3066#16 (withTx (List.replicate 8 0#8) [] (opened Config.small))).tx.txq = List.replicate 8 0#8 := by decide

/-- As vT6 in the small configuration: 4 of 6 bytes move. -/
theorem test_flush :
    hostRes (ranWord 0x4ABC#16 (withTx [1#8, 2#8, 3#8, 4#8, 5#8, 6#8] [] (opened Config.small))) = 0x600004#24 ∧
    (ranWord 0x4000#16 (withTx [1#8, 2#8, 3#8, 4#8, 5#8, 6#8] [] (opened Config.small))).tx.txq = [5#8, 6#8] ∧
    (ranWord 0x4000#16 (withTx [1#8, 2#8, 3#8, 4#8, 5#8, 6#8] [] (opened Config.small))).tx.txStage =
      [1#8, 2#8, 3#8, 4#8] := by decide

/-- vT9. -/
theorem test_poll :
    hostRes (ranWord 0x5000#16 (withRx [0xA0#8] [6#8, 1#8, 0xA7#8] (opened Config.default))) = 0x600004#24 ∧
    (ranWord 0x5000#16 (withRx [0xA0#8] [6#8, 1#8, 0xA7#8] (opened Config.default))).rx.rxq =
      [0xA0#8, 6#8, 1#8, 0xA7#8] := by decide

/-- vT15. -/
theorem test_poll_nearlyFull :
    hostRes (ranWord 0x5000#16 (withRx (List.replicate 7 0#8) [0x11#8, 0x12#8] (opened Config.small))) = 0x600008#24 ∧
    (ranWord 0x5000#16 (withRx (List.replicate 7 0#8) [0x11#8, 0x12#8] (opened Config.small))).rx.rxStage = [0x12#8] := by
  decide

/-- vT11. -/
theorem test_deq :
    hostRes (ranWord 0x6000#16 (withRx [0xA0#8, 6#8] [] (opened Config.default))) = 0x6000A0#24 ∧
    (ranWord 0x6000#16 (withRx [0xA0#8, 6#8] [] (opened Config.default))).rx.rxq = [6#8] := by decide

/-- vT12. -/
theorem test_deq_empty :
    hostRes (ranWord 0x6000#16 (withRx [] [0xA0#8] (opened Config.default))) = 0x780000#24 ∧
    (ranWord 0x6000#16 (withRx [] [0xA0#8] (opened Config.default))).rx.rxStage = [0xA0#8] := by decide

/-- vT8 and vT13: `txq` and `rxq` are counted, the staging queues are not. -/
theorem test_pending :
    hostRes (ranWord 0x7000#16 (withTx [1#8, 2#8, 3#8] [4#8] (opened Config.default))) = 0x600003#24 ∧
    hostRes (ranWord 0x8000#16 (withRx [0xA0#8] [6#8] (opened Config.default))) = 0x600001#24 := by decide

/-- vT17. -/
theorem test_closed_refuses :
    hostRes (ranWord 0x4000#16 State.reset) = 0x790000#24 ∧ hostRes (ranWord 0x5000#16 State.reset) = 0x790000#24 ∧
    hostRes (ranWord 0x7000#16 State.reset) = 0x790000#24 ∧ hostRes (ranWord 0x8000#16 State.reset) = 0x790000#24 := by decide

/-- vO1 and vO2: what the one attempt of OPEN does. -/
theorem test_open_attempt :
    hostRes (seqClock true (ranWord 0x2000#16 State.reset)) = 0x600001#24 ∧
    (seqClock true (ranWord 0x2000#16 State.reset)).lnk.statusByte = 0x02#8 ∧
    hostRes (seqClock false (ranWord 0x2000#16 State.reset)) = 0x7B0000#24 ∧
    (seqClock false (ranWord 0x2000#16 State.reset)).lnk.statusByte = 0x13#8 := by decide

/-- vO5. -/
theorem test_open_noAttempts :
    hostRes (ranWord 0x2000#16 (ranWord 0x1200#16 State.reset)) = 0x7B0000#24 ∧
    (ranWord 0x2000#16 (ranWord 0x1200#16 State.reset)).lnk.statusByte = 0x13#8 := by decide

/-- vK3, vK4, vK6, vK7, vK8, vK11. -/
theorem test_cfgwr :
    (ranWord 0x1007#16 State.reset).csr.baudSel = 7#8 ∧ hostRes (ranWord 0x1008#16 State.reset) = 0x7A0000#24 ∧
    (ranWord 0x111B#16 State.reset).csr.lineFmt = 0x1B#8 ∧ hostRes (ranWord 0x110F#16 State.reset) = 0x7A0000#24 ∧
    hostRes (ranWord 0x1123#16 State.reset) = 0x7A0000#24 ∧ hostRes (ranWord 0x1183#16 State.reset) = 0x7A0000#24 ∧
    hostRes (ranWord 0x1500#16 State.reset) = 0x7A0000#24 := by decide

/-- vK13, vK14: the frozen registers are tested before the value, the link before all. -/
theorem test_cfgwr_frozen :
    hostRes (ranWord 0x1008#16 (opened Config.default)) = 0x790000#24 ∧
    hostRes (ranWord 0x1301#16 (linked .fatal State.reset)) = 0x790000#24 ∧
    (ranWord 0x132C#16 (opened Config.default)).csr.waitLo = 0x2C#8 := by decide

/-- vK1. -/
theorem test_rdcsr :
    hostRes (ranWord 0xF000#16 State.reset) = 0x600003#24 ∧ hostRes (ranWord 0xF100#16 State.reset) = 0x600003#24 ∧
    hostRes (ranWord 0xF200#16 State.reset) = 0x600001#24 ∧ hostRes (ranWord 0xF500#16 State.reset) = 0x600000#24 ∧
    hostRes (ranWord 0xF700#16 State.reset) = 0x600008#24 ∧ hostRes (ranWord 0xF800#16 State.reset) = 0x600000#24 := by decide

/-- vK2 and vK15. -/
theorem test_rdcsr_reserved :
    hostRes (ranWord 0xF900#16 State.reset) = 0x7A0000#24 ∧ hostRes (ranWord 0xFF00#16 State.reset) = 0x7A0000#24 ∧
    hostRes (ranWord 0xF500#16 (State.enterFatal .openFail State.reset)) = 0x600013#24 := by decide

/-! ## Line engine -/

/-- vW1, vW9, vW10, vW11. -/
theorem test_character :
    charBits 0x03#8 0xA0#8 = [false, false, false, false, false, false, true, false, true, true] ∧
    charBits 0x1B#8 0xA0#8 = [false, false, false, false, false, false, true, false, true, false, true, true] ∧
    charBits 0x02#8 0xA0#8 = [false, false, false, false, false, false, true, false, true] ∧
    charLength 0x00#8 = 7 := by decide

/-- vW6 and vX10: an odd parity bit is bad in an even format. -/
theorem test_parity :
    charBits 0x07#8 0xA9#8 = [false, true, false, false, true, false, true, false, true, true, true] ∧
    charGood 0x07#8 ((charBits 0x07#8 0xA9#8).drop 1) = true ∧ charGood 0x0B#8 ((charBits 0x07#8 0xA9#8).drop 1) = false := by
  decide

/-- vV2, its last byte. -/
theorem test_overrun :
    (deliverByte 0x25#8 true (withRx [] [0x21#8, 0x22#8, 0x23#8, 0x24#8] (opened Config.small))).rx.rxStage =
      [0x22#8, 0x23#8, 0x24#8, 0x25#8] ∧
    (deliverByte 0x25#8 true (withRx [] [0x21#8, 0x22#8, 0x23#8, 0x24#8] (opened Config.small))).lnk.statusByte = 0x06#8 := by
  decide

/-- vX9, the flag. -/
theorem test_badCharacter :
    (deliverByte 0xA0#8 false (opened Config.default)).lnk.statusByte = 0x0A#8 ∧
    (deliverByte 0xA0#8 false (opened Config.default)).rx.rxStage = [] := by decide

/-- 70_reset_and_hazards.md R320: at 7 data bits the marker arrives as 0x20, and RECV answers WRNGCRC. -/
theorem test_sevenDataBits :
    (deliverByte 0xA0#8 true { opened Config.default with csr := { (opened Config.default).csr with lineFmt := 0x02#8 } }).rx.rxStage =
      [0x20#8] ∧
    hostRes (ranWord 0xB000#16 (lastSix [0x20#8, 6#8, 1#8, 0x27#8])) = 0x730000#24 := by decide

/-- vX4: the start bit is confirmed 833 cycles after its first 0 sample, at 9600 baud. -/
theorem test_startBit :
    (receiveSample false (opened Config.default)).rx.rxSh = .busy [] 0 833 ∧
    (State.reset).bitCycles = 1667 := by decide

/-! ## Protocol driver -/

/-- vD1. -/
theorem test_sendOn :
    hostRes (ranWord 0xA101#16 (opened Config.default)) = 0x600000#24 ∧
    (ranWord 0xA101#16 (opened Config.default)).tx.txStage = [0xA0#8, 1#8, 1#8, 0xA2#8] ∧
    (ranWord 0xA101#16 (opened Config.default)).drv.relayState = [true, false, false, false, false, false, false, false] ∧
    (ranWord 0xA101#16 (opened Config.default)).drv.lastChannel = 1#8 := by decide

/-- vD2, in the small configuration. -/
theorem test_sendOff :
    hostRes (ranWord 0xA001#16 (withDrv [true, true] 0#8 (opened Config.small))) = 0x600000#24 ∧
    (ranWord 0xA001#16 (withDrv [true, true] 0#8 (opened Config.small))).tx.txStage = [0xA0#8, 1#8, 0#8, 0xA1#8] ∧
    (ranWord 0xA001#16 (withDrv [true, true] 0#8 (opened Config.small))).drv = { relayState := [false, true], lastChannel := 1#8 } := by
  decide

/-- S2. -/
theorem test_sendOnCheck_noWait :
    hostRes (ranWord 0xA306#16 (opened Config.default)) = 0x710000#24 ∧
    (ranWord 0xA306#16 (opened Config.default)).tx.txStage = [0xA0#8, 6#8, 3#8, 0xA9#8] ∧
    (ranWord 0xA306#16 (opened Config.default)).relay 6#8 = true := by decide

/-- vG1, acceptance: the wait of 20 ms is 320 000 cycles. -/
theorem test_sendOnCheck_wait :
    (ranWord 0xA306#16 (withWait 0#8 20#8 (opened Config.default))).sqr.seq = .sendWait ∧
    (ranWord 0xA306#16 (withWait 0#8 20#8 (opened Config.default))).sqr.timer = 320000 := by decide

/-- 10_state.md R26: 30 bits at 16 MHz. -/
theorem test_timerWidth : timerWidth Config.default = 30 := by
  have h : longestWait Config.default + 1 = 1048560001 := by decide
  rw [timerWidth, h]
  exact Nat.le_antisymm (Nat.clog_le_of_le_pow (by decide)) ((Nat.lt_clog_iff_pow_lt (by decide)).2 (by decide))

/-- As S2, for OFF_CHECK (43_protocol_driver.md R214). -/
theorem test_sendOffCheck :
    (ranWord 0xA202#16 (withDrv [true, true] 0#8 (opened Config.small))).drv = { relayState := [true, false], lastChannel := 2#8 } ∧
    (ranWord 0xA202#16 (withDrv [true, true] 0#8 (opened Config.small))).tx.txStage = [0xA0#8, 2#8, 2#8, 0xA4#8] := by decide

/-- vD12. -/
theorem test_sendNegateCheck :
    hostRes (ranWord 0xA402#16 (withDrv [false, true] 0#8 (opened Config.small))) = 0x710000#24 ∧
    (ranWord 0xA402#16 (withDrv [false, true] 0#8 (opened Config.small))).drv = { relayState := [false, false], lastChannel := 2#8 } ∧
    (ranWord 0xA402#16 (withDrv [false, true] 0#8 (opened Config.small))).tx.txStage = [0xA0#8, 2#8, 4#8, 0xA6#8] := by decide

/-- As vD13, in the small configuration. -/
theorem test_sendCheck :
    (ranWord 0xA502#16 (withDrv [false, true] 0#8 (opened Config.small))).drv = { relayState := [false, true], lastChannel := 2#8 } ∧
    (ranWord 0xA502#16 (withDrv [false, true] 0#8 (opened Config.small))).tx.txStage = [0xA0#8, 2#8, 5#8, 0xA7#8] := by decide

/-- vD4, vD5, vD6, vD10. -/
theorem test_send_badChannel :
    hostRes (ranWord 0xA100#16 (opened Config.default)) = 0x770000#24 ∧
    hostRes (ranWord 0xA109#16 (opened Config.default)) = 0x770000#24 ∧
    hostRes (ranWord 0xA5FF#16 (opened Config.default)) = 0x770000#24 ∧
    hostRes (ranWord 0xA600#16 (opened Config.default)) = 0x770000#24 := by decide

/-- vD7, vD8, vD9. -/
theorem test_send_notWire :
    hostRes (ranWord 0xA606#16 (opened Config.default)) = 0x750000#24 ∧
    hostRes (ranWord 0xA706#16 (opened Config.default)) = 0x750000#24 ∧
    hostRes (ranWord 0xAF06#16 (opened Config.default)) = 0x750000#24 := by decide

/-- vD21: the flush hands over one byte. -/
theorem test_send_short :
    hostRes (ranWord 0xA102#16 (withTx [] [1#8, 1#8, 0xA2#8] (opened Config.small))) = 0x720000#24 ∧
    (ranWord 0xA102#16 (withTx [] [1#8, 1#8, 0xA2#8] (opened Config.small))).tx.txStage = [1#8, 1#8, 0xA2#8, 0xA0#8] ∧
    (ranWord 0xA102#16 (withTx [] [1#8, 1#8, 0xA2#8] (opened Config.small))).tx.txq = [2#8, 1#8, 0xA3#8] := by decide

/-- vD24: a torn frame. -/
theorem test_send_torn :
    hostRes (ran (.send 1#4 1#8) (withTx [0x11#8, 0x12#8, 0x13#8, 0x14#8, 0x15#8, 0x16#8] [] (opened Config.small))) = 0x720000#24 ∧
    (ran (.send 1#4 1#8) (withTx [0x11#8, 0x12#8, 0x13#8, 0x14#8, 0x15#8, 0x16#8] [] (opened Config.small))).tx.txq =
      [0x15#8, 0x16#8, 0xA0#8, 1#8] := by decide

/-- vE1, vE4, vE7, vE8. -/
theorem test_recv :
    hostRes (ranWord 0xB000#16 (lastSix [0xA0#8, 6#8, 1#8, 0xA7#8])) = 0x100000#24 ∧
    hostRes (ranWord 0xB000#16 (lastSix [0xA0#8, 6#8, 1#8])) = 0x710000#24 ∧
    (ranWord 0xB000#16 (lastSix [0xA0#8, 6#8, 1#8])).rx.rxq = [0xA0#8, 6#8, 1#8] ∧
    hostRes (ranWord 0xB000#16 (lastSix [0xFF#8, 0#8, 0xA0#8, 6#8, 1#8, 0xA7#8])) = 0x100000#24 ∧
    hostRes (ranWord 0xB000#16 (lastSix [0xA0#8, 6#8, 1#8, 0xA7#8, 0#8])) = 0x730000#24 := by decide

/-- vE12, vE14, vE16, vE20. -/
theorem test_recv_errors :
    hostRes (ranWord 0xB000#16 (lastSix [0xA0#8, 5#8, 1#8, 0xA6#8])) = 0x740000#24 ∧
    hostRes (ranWord 0xB000#16 (lastSix [0xA0#8, 6#8, 2#8, 0xA8#8])) = 0x750000#24 ∧
    hostRes (ranWord 0xB000#16 (lastSix [0xA0#8, 6#8, 0#8, 0xA6#8])) = 0x760000#24 ∧
    (ranWord 0xB000#16 (lastSix [0xA0#8, 6#8, 0#8, 0xA6#8])).relay 6#8 = false ∧
    hostRes (ranWord 0xB000#16 (lastSix [0xA0#8, 5#8, 7#8, 0xAC#8])) = 0x740000#24 := by decide

/-- vH2. -/
theorem test_init :
    hostRes (ranWord 0x9000#16 (opened Config.default)) = 0x600008#24 ∧
    (ranWord 0x9000#16 (opened Config.default)).tx.txq.length = 16 ∧
    (ranWord 0x9000#16 (opened Config.default)).drv.lastChannel = 8#8 := by decide

/-- vH1, the end of the last wait: relay 2 reports ON where its register is false. -/
theorem test_init_lastWait :
    hostRes (waitEnds { withRx [] [0xA0#8, 2#8, 1#8, 0xA3#8] (withDrv [false, false] 2#8 (withSeq .sendWait 1 (opened Config.small))) with
      sqr := { (opened Config.small).sqr with seq := .sendWait, initActive := true, initCh := 2#8 } }) = 0x600001#24 := by decide

/-- vG1, vG4 and S4, the end of the wait. -/
theorem test_answerWait :
    hostRes (waitEnds (withSeq .sendWait 1 (lastSix [0xA0#8, 6#8, 0#8, 0xA6#8]))) = 0x760000#24 ∧
    (waitEnds (withSeq .sendWait 1 (lastSix [0xA0#8, 6#8, 0#8, 0xA6#8]))).relay 6#8 = false ∧
    hostRes (waitEnds (withSeq .sendWait 1 (lastSix [0xA0#8, 6#8, 1#8, 0xA7#8]))) = 0x100000#24 ∧
    hostRes (waitEnds (withSeq .sendWait 1 (lastSix []))) = 0x710000#24 := by decide

/-- vH5 and vH6. -/
theorem test_rdstate :
    hostRes (ranWord 0xE006#16 (lastSix [])) = 0x600001#24 ∧ hostRes (ranWord 0xE005#16 (lastSix [])) = 0x600000#24 ∧
    hostRes (ranWord 0xE000#16 State.reset) = 0x770000#24 ∧ hostRes (ranWord 0xE009#16 State.reset) = 0x770000#24 := by decide

/-- vH7 to vH11. -/
theorem test_compose :
    hostRes (ranWord 0xC000#16 State.reset) = 0x000000#24 ∧ hostRes (ranWord 0xC100#16 State.reset) = 0x100001#24 ∧
    hostRes (ranWord 0xC200#16 State.reset) = 0x200002#24 ∧ hostRes (ranWord 0xCF55#16 State.reset) = 0x300003#24 := by decide

/-- vH12 to vH15. -/
theorem test_cmd2bool :
    hostRes (ranWord 0xD100#16 State.reset) = 0x600001#24 ∧ hostRes (ranWord 0xD000#16 State.reset) = 0x600000#24 ∧
    hostRes (ranWord 0xD500#16 (opened Config.default)) = 0x7B0000#24 ∧
    (ranWord 0xD600#16 State.reset).lnk.statusByte = 0x23#8 := by decide

/-! ## Relay frames, run alone (log entry 7); the bytes are those of 42_framer.md R196 -/

theorem test_frame_rows :
    (ran (.frameOff 1#8 0xA1#8) (opened Config.small)).tx.txStage = [0xA0#8, 1#8, 0#8, 0xA1#8] ∧
    (ran (.frameOn 1#8 0xA2#8) (opened Config.small)).tx.txStage = [0xA0#8, 1#8, 1#8, 0xA2#8] ∧
    (ran (.frameOffCheck 1#8 0xA3#8) (opened Config.small)).tx.txStage = [0xA0#8, 1#8, 2#8, 0xA3#8] ∧
    (ran (.frameOnCheck 1#8 0xA4#8) (opened Config.small)).tx.txStage = [0xA0#8, 1#8, 3#8, 0xA4#8] ∧
    (ran (.frameNegateCheck 1#8 0xA5#8) (opened Config.small)).tx.txStage = [0xA0#8, 1#8, 4#8, 0xA5#8] ∧
    (ran (.frameCheck 1#8 0xA6#8) (opened Config.small)).tx.txStage = [0xA0#8, 1#8, 5#8, 0xA6#8] := by decide

theorem test_feedback_rows :
    hostRes (ran (.fbOn 6#8 0xA7#8) (lastSix [])) = 0x100000#24 ∧ hostRes (ran (.fbOff 6#8 0xA6#8) (lastSix [])) = 0x760000#24 ∧
    hostRes (ran (.fbOff 5#8 0xA5#8) (lastSix [])) = 0x740000#24 := by decide

/-! ## A step -/

/-- The word placed by `withFetchWord` is the first instruction after reset (vK1, index 7). -/
theorem test_step_first :
    hostRes (stepped (State.reset.withFetchWord 16 0xF700)) = 0x600008#24 ∧
    (stepped (State.reset.withFetchWord 16 0xF700)).hist.opLog = [{ op := 0xF700#16, cmd := .none, err := .no, val := 8#16 }] := by
  decide

/-- A frame placed by `withFetchWord` runs; right after reset the link is not OPEN. -/
theorem test_step_frame :
    hostRes (stepped (State.reset.withFetchWord 32 0xA00101A2)) = 0x790000#24 ∧
    hostRes (stepped (State.reset.withFetchWord 32 0xA0000500)) = 0x790000#24 := by decide

/-- vZ2. -/
theorem test_reset_midway :
    (stepped { withSeq .sendWait 5 (lastSix [1#8]) with env := { schedule := [.reset], inputCount := 0 } }).sqr.seq = .idle ∧
    (stepped { withSeq .sendWait 5 (lastSix [1#8]) with env := { schedule := [.reset], inputCount := 0 } }).rx.rxStage = [] ∧
    (stepped { withSeq .sendWait 5 (lastSix [1#8]) with env := { schedule := [.reset], inputCount := 0 } }).relay 6#8 = false := by
  decide

/-! ## Witnesses: for each statement with hypotheses, states and operands that meet them, at the boundary of each clause -/

/-- The next inputs set. -/
def given (is : List Input) (s : State) : State := { s with env := { schedule := is, inputCount := 0 } }

/-- The small configuration, OPEN, with exactly the room one frame needs. -/
def tightOpen : State := withTx [1#8, 2#8, 3#8, 4#8] [] (opened Config.small)

theorem witness_DecodeOfEncode :
    (Instr.sendReserved 8#4 0#8).wellFormed = true ∧ (Instr.sendReserved 15#4 255#8).wellFormed = true ∧
    (Instr.frameCheck 255#8 0xA4#8).wellFormed = true ∧ (Instr.fbOn 0#8 0xA1#8).wellFormed = true ∧
    (Instr.send 15#4 255#8).wellFormed = true ∧ decode (.relayFrame .fromRelay 0xA0FF00A0#32) = .error .badChecksum ∧
    decode (.relayFrame .fromRelay 0xA0FF009F#32) = .ok (.fbOff 255#8 0x9F#8) := by decide

theorem witness_CommandWordDecoding :
    (0x2000#16).toNat / 4096 = (0x2FFF#16).toNat / 4096 ∧ (0xBFFF#16).toNat / 4096 ∈ [0, 2, 4, 5, 6, 7, 8, 9, 11] ∧
    (0xE0FF#16).toNat / 4096 ∈ [3, 14] ∧ (0xE0FF#16).toNat % 256 = (0xEFFF#16).toNat % 256 ∧
    (0xFF00#16).toNat / 4096 ∈ [13, 15] ∧ (0xFF00#16).toNat / 256 = (0xFFFF#16).toNat / 256 ∧
    (0xC300#16).toNat / 4096 = 12 ∧ (0xC300#16).toNat / 256 % 4 = (0xCFFF#16).toNat / 256 % 4 := by decide

theorem witness_ChecksumAndFrameLaws : (mkFrame 6#8 1#8).valid = true := by decide

theorem witness_ByteChangesCaughtOrNot :
    (mkFrame 0#8 0#8).valid = true ∧ 0x20#8 ≠ (mkFrame 0#8 0#8).f0 ∧ 1#8 ≠ (mkFrame 0#8 0#8).f1 ∧
    255#8 ≠ (mkFrame 0#8 0#8).f2 ∧ 0x20#8 ≠ (mkFrame 0#8 0#8).f3 := by decide

theorem witness_LinkPermissions :
    isHostOp .flush = true ∧ permission .flush State.reset.lnk.link = .badState ∧ State.reset.lnk.link ≠ .opening ∧
    permission .openLink (opened Config.small).lnk.link = .badState ∧ permission (.cfgwr 2#4 0#8) .opened = .badState ∧
    permission (.cfgwr 5#4 0#8) .closed = .illOp ∧ permission .reserved0 .opened = .illOp ∧
    permission (.rdstate 1#8) .fatal = .badState ∧ State.reset.lnk.link ≠ .fatal := by decide

theorem witness_CfgwrWritesOrRefuses :
    (linked .fatal State.reset).lnk.link = .fatal ∧ State.reset.lnk.link = .closed ∧ State.reset.lnk.link ≠ .fatal ∧
    (opened Config.default).lnk.link ≠ .closed ∧ (opened Config.default).lnk.link ≠ .fatal ∧ 5 ≤ (5#4).toNat ∧ (2#4).toNat ≤ 2 ∧
    8 ≤ (8#8).toNat ∧ (7#8).toNat < 8 ∧ 32 ≤ (32#8).toNat ∧ (0x0F#8).toNat / 4 % 4 = 3 ∧ (0x1B#8).toNat < 32 ∧
    (0x1B#8).toNat / 4 % 4 ≠ 3 := by decide

theorem witness_OpenBegins :
    (opened Config.default).lnk.link ≠ .closed ∧ State.reset.lnk.link = .closed ∧ State.reset.csr.maxAttempts ≠ 0#8 ∧
    (ranWord 0x1200#16 State.reset).lnk.link = .closed ∧ (ranWord 0x1200#16 State.reset).csr.maxAttempts = 0#8 := by decide

theorem witness_OpenAttemptOutcome :
    (ranWord 0x2000#16 State.reset).sqr.seq = .openTry ∧
    (ranWord 0x2000#16 State.reset).sqr.attempts = (ranWord 0x2000#16 State.reset).csr.maxAttempts ∧
    (withSeq .openTry 0 State.reset).sqr.seq = .openTry ∧
    (withSeq .openTry 0 State.reset).sqr.attempts ≠ (withSeq .openTry 0 State.reset).csr.maxAttempts ∧
    0 < (withSeq .openTry 0 State.reset).cfg.clkHz ∧
    (withSeq .openDelay 1 State.reset).sqr.seq = .openDelay ∧ (withSeq .openDelay 1 State.reset).sqr.timer = 1 := by decide

theorem witness_EnqAppendsOrRejects :
    State.reset.lnk.link ≠ .opened ∧ (opened Config.small).lnk.link = .opened ∧
    (withTx (List.replicate 8 0#8) [] (opened Config.small)).tx.txq.length = (opened Config.small).cfg.cap ∧
    (withTx (List.replicate 7 0#8) [] (opened Config.small)).tx.txq.length ≠ (opened Config.small).cfg.cap := by decide

theorem witness_FlushMovesOldest :
    2 = min (withTx [1#8, 2#8] [3#8, 4#8] (opened Config.small)).tx.txq.length
      ((opened Config.small).cfg.txsDepth - (withTx [1#8, 2#8] [3#8, 4#8] (opened Config.small)).tx.txStage.length) ∧
    (withTx [1#8, 2#8] [3#8, 4#8] (opened Config.small)).lnk.link = .opened ∧ State.reset.lnk.link ≠ .opened := by decide

theorem witness_PollMovesStaged :
    1 = min (withRx (List.replicate 7 0#8) [1#8, 2#8] (opened Config.small)).rx.rxStage.length
      ((opened Config.small).cfg.cap - (withRx (List.replicate 7 0#8) [1#8, 2#8] (opened Config.small)).rx.rxq.length) ∧
    (withRx (List.replicate 7 0#8) [1#8, 2#8] (opened Config.small)).lnk.link = .opened ∧ State.reset.lnk.link ≠ .opened := by
  decide

theorem witness_DeqTakesOldest :
    State.reset.lnk.link ≠ .opened ∧ (opened Config.small).lnk.link = .opened ∧ (opened Config.small).rx.rxq = [] ∧
    (withRx [1#8] [] (opened Config.small)).rx.rxq = 1#8 :: [] ∧ (withRx [1#8] [] (opened Config.small)).lnk.link = .opened := by
  decide

theorem witness_PendingCounts : State.reset.lnk.link ≠ .opened ∧ (opened Config.small).lnk.link = .opened := by decide

theorem witness_SendRefusesOperands :
    (opened Config.small).lnk.link = .opened ∧ (0#8).toNat < 1 ∧ (opened Config.small).cfg.channels < (3#8).toNat ∧
    1 ≤ (1#8).toNat ∧ (2#8).toNat ≤ (opened Config.small).cfg.channels ∧ 8 ≤ (8#4).toNat ∧ 6 ≤ (6#4).toNat ∧
    Instr.send 6#4 0#8 ∈ [Instr.send 6#4 0#8, sendForm 6#4 0#8] := by decide

theorem witness_PlainSendCompletes :
    Instr.sendOff 2#8 ∈ sendRows .off 2#8 ∧ Instr.sendOn 1#8 ∈ sendRows .on 1#8 ∧ Instr.send 1#4 1#8 ∈ sendRows .on 1#8 ∧
    tightOpen.lnk.link = .opened ∧ 1 ≤ (1#8).toNat ∧ (2#8).toNat ≤ tightOpen.cfg.channels ∧ tightOpen.roomForFrame := by decide

theorem witness_CheckSendWaits :
    (withWait 0#8 1#8 tightOpen).cfg.legal ∧ isCheckCommand .check ∧ Instr.sendCheck 2#8 ∈ sendRows .check 2#8 ∧ isCheckCommand .offCheck ∧
    Instr.sendOffCheck 1#8 ∈ sendRows .offCheck 1#8 ∧ isCheckCommand .onCheck ∧ Instr.send 3#4 1#8 ∈ sendRows .onCheck 1#8 ∧
    isCheckCommand .negateCheck ∧ Instr.sendNegateCheck 1#8 ∈ sendRows .negateCheck 1#8 ∧
    (withWait 0#8 1#8 tightOpen).lnk.link = .opened ∧ (2#8).toNat ≤ (withWait 0#8 1#8 tightOpen).cfg.channels ∧
    (withWait 0#8 1#8 tightOpen).roomForFrame ∧
    256 * (withWait 0#8 1#8 tightOpen).csr.waitHi.toNat + (withWait 0#8 1#8 tightOpen).csr.waitLo.toNat ≠ 0 := by decide

theorem witness_CheckSendWithoutWait :
    isCheckCommand .onCheck ∧ Instr.sendOnCheck 1#8 ∈ sendRows .onCheck 1#8 ∧ tightOpen.lnk.link = .opened ∧
    1 ≤ (1#8).toNat ∧ (1#8).toNat ≤ tightOpen.cfg.channels ∧ tightOpen.roomForFrame ∧ tightOpen.csr.waitHi = 0#8 ∧
    tightOpen.csr.waitLo = 0#8 := by decide

/-- One byte too many in `txq`; and one too many in `tx_stage`. -/
theorem witness_ShortSendReportsNoSend :
    isWireCommand .on ∧ Instr.sendOn 1#8 ∈ sendRows .on 1#8 ∧
    (withTx (List.replicate 5 0#8) [] (opened Config.small)).lnk.link = .opened ∧
    1 ≤ (1#8).toNat ∧ (1#8).toNat ≤ (opened Config.small).cfg.channels ∧
    (withTx (List.replicate 5 0#8) [] (opened Config.small)).tx.txq.length ≤ (opened Config.small).cfg.cap ∧
    ¬ (withTx (List.replicate 5 0#8) [] (opened Config.small)).roomForFrame ∧
    ¬ (withTx [] [0#8] (opened Config.small)).roomForFrame := by decide

theorem witness_CommandFrameHandedOver :
    Instr.frameOff 1#8 0xA1#8 ∈ frameRows .off 1#8 0xA1#8 ∧ Instr.frameCheck 255#8 0#8 ∈ frameRows .check 255#8 0#8 ∧
    tightOpen.lnk.link = .opened ∧ tightOpen.roomForFrame ∧ State.reset.lnk.link ≠ .opened ∧
    (withTx [] [0#8] (opened Config.small)).tx.txq.length ≤ (opened Config.small).cfg.cap ∧
    ¬ (withTx [] [0#8] (opened Config.small)).roomForFrame := by decide

theorem witness_RecvJudgesNewestFour :
    State.reset.lnk.link ≠ .opened ∧ (lastSix [1#8, 2#8, 3#8]).lnk.link = .opened ∧
    (lastSix [1#8, 2#8, 3#8]).polled.rx.rxq.length < 4 ∧
    (lastSix [0xA0#8, 6#8, 1#8, 0xA7#8]).polled.rx.rxq =
      [] ++ [(mkFrame 6#8 1#8).f0, (mkFrame 6#8 1#8).f1, (mkFrame 6#8 1#8).f2, (mkFrame 6#8 1#8).f3] := by decide

theorem witness_FeedbackFrameOutcome :
    (Instr.fbOn 6#8 0xA7#8 = if true then .fbOn 6#8 0xA7#8 else .fbOff 6#8 0xA7#8) ∧ State.reset.lnk.link ≠ .opened ∧
    (lastSix []).lnk.link = .opened ∧ (Instr.fbOn 6#8 0xA6#8).wellFormed = false ∧ (Instr.fbOn 6#8 0xA7#8).wellFormed = true ∧
    (Instr.fbOff 5#8 0xA5#8).wellFormed = true ∧ 5#8 ≠ (lastSix []).drv.lastChannel ∧
    (withDrv [] 0#8 (opened Config.small)).drv.lastChannel = 0#8 ∧ 6#8 = (lastSix []).drv.lastChannel ∧
    (lastSix []).drv.lastChannel ≠ 0#8 ∧ (lastSix []).drv.relayState.getD 5 false = true := by decide

/-- The line format of 7 data bits. -/
def sevenBits (s : State) : State := { s with csr := { s.csr with lineFmt := 0x02#8 } }

theorem witness_RecvWritesOnlyLastChannel :
    (∃ t, exec .recv (lastSix [0xA0#8, 6#8, 0#8, 0xA6#8]) = .next t ∧ t.res.err = .wrngSta) ∧
    (∃ t, exec .recv (lastSix [0xA0#8, 6#8, 1#8, 0xA7#8]) = .next t ∧ t.res.err = .no ∧ t.res.err ≠ .noRecv) ∧
    (lastSix []).lnk.link = .opened ∧ (lastSix []).drv.lastChannel.toNat ≤ (lastSix []).drv.relayState.length ∧
    5#8 ≠ (lastSix []).drv.lastChannel ∧ (sevenBits (lastSix [0x20#8, 6#8, 1#8, 0x27#8])).rxFits ∧
    (sevenBits (lastSix [0x20#8, 6#8, 1#8, 0x27#8])).csr.lineFmt.toNat % 4 ≠ 3 ∧
    (sevenBits (lastSix [0x20#8, 6#8, 1#8, 0x27#8])).lnk.link = .opened ∧
    (∃ t, exec .recv (sevenBits (lastSix [0x20#8, 6#8, 1#8, 0x27#8])) = .next t ∧ t.res.err = .wrngCrc) :=
  ⟨⟨_, rfl, by decide⟩, ⟨_, rfl, by decide, by decide⟩, by decide, by decide, by decide, by decide, by decide, by decide,
    ⟨_, rfl, by decide⟩⟩

theorem witness_AnswerEqualsPrediction :
    (withSeq .sendWait 1 (lastSix [0xA0#8, 6#8, 1#8, 0xA7#8])).sqr.seq = .sendWait ∧
    (withSeq .sendWait 1 (lastSix [0xA0#8, 6#8, 1#8, 0xA7#8])).sqr.initActive = false ∧
    (withSeq .sendWait 1 (lastSix [0xA0#8, 6#8, 1#8, 0xA7#8])).sqr.timer = 1 ∧
    (withSeq .sendWait 1 (lastSix [0xA0#8, 6#8, 1#8, 0xA7#8])).lnk.link = .opened ∧
    (answerWaitEnds (withSeq .sendWait 1 (lastSix [0xA0#8, 6#8, 1#8, 0xA7#8]))).res.err = .no ∧
    (withSeq .sendWait 1 (lastSix [])).relay (withSeq .sendWait 1 (lastSix [])).drv.lastChannel = true := by decide

theorem witness_InitWithoutWait :
    (opened Config.default).cfg.legal ∧ (opened Config.default).lnk.link = .opened ∧ (opened Config.default).csr.waitHi = 0#8 ∧
    (opened Config.default).csr.waitLo = 0#8 ∧ (opened Config.default).tx.txq.length ≤ (opened Config.default).cfg.cap ∧
    (8#8).toNat = (opened Config.default).cfg.channels := by decide

theorem witness_InitTakesChannelsInTurn :
    (withTx [] [0#8] (opened Config.small)).cfg.legal ∧ ¬ (withTx [] [0#8] (opened Config.small)).roomForFrame ∧
    (withTx [] [0#8] (opened Config.small)).tx.txq.length ≤ (withTx [] [0#8] (opened Config.small)).cfg.cap ∧
    1#8 = (withTx [] [0#8] (opened Config.small)).sqr.initCh + 1#8 ∧ 1 ≤ (1#8).toNat ∧
    (1#8).toNat ≤ (withTx [] [0#8] (opened Config.small)).cfg.channels ∧
    (withWait 1#8 0#8 tightOpen).cfg.legal ∧ (withWait 1#8 0#8 tightOpen).lnk.link = .opened ∧
    (withWait 1#8 0#8 tightOpen).roomForFrame ∧
    256 * (withWait 1#8 0#8 tightOpen).csr.waitHi.toNat + (withWait 1#8 0#8 tightOpen).csr.waitLo.toNat ≠ 0 := by decide

/-- INIT in the answer wait of channel `ch`, in the small configuration. -/
def initWaiting (ch : Byte) : State :=
  { withWait 0#8 1#8 (withDrv [false, false] ch tightOpen) with
    sqr := { seq := .sendWait, timer := 1, initActive := true, initCh := ch, initErrs := 0#8, pendOp := 0x9000#16, attempts := 0#8 } }

theorem witness_InitLastChannelEnds :
    (initWaiting 2#8).sqr.seq = .sendWait ∧ (initWaiting 2#8).sqr.initActive = true ∧
    (initWaiting 2#8).sqr.initCh.toNat = (initWaiting 2#8).cfg.channels ∧ (initWaiting 2#8).lnk.link = .opened ∧
    (initWaiting 2#8).sqr.timer = 1 ∧ (∃ t, exec .recv (initWaiting 2#8).waitOver = .next t ∧ t.res.err = .noRecv) :=
  ⟨by decide, by decide, by decide, by decide, by decide, ⟨_, rfl, by decide⟩⟩

theorem initWaiting_Inv : (initWaiting 1#8).Inv :=
  ⟨by decide, ⟨by decide, by decide, by decide⟩, by decide, rfl, by decide,
    ⟨Nat.one_lt_two_pow (Nat.clog_pos (by decide) (by decide)).ne', fun _ => by decide⟩⟩

theorem witness_InitGoesOnToNextChannel :
    (initWaiting 1#8).Inv ∧ (initWaiting 1#8).sqr.seq = .sendWait ∧ (initWaiting 1#8).sqr.initActive = true ∧
    (initWaiting 1#8).sqr.initCh.toNat < (initWaiting 1#8).cfg.channels ∧ (initWaiting 1#8).roomForFrame ∧
    256 * (initWaiting 1#8).csr.waitHi.toNat + (initWaiting 1#8).csr.waitLo.toNat ≠ 0 ∧
    (∃ t, exec .recv (initWaiting 1#8).waitOver = .next t) ∧ (withTx [] [0#8] (initWaiting 1#8)).Inv ∧
    ¬ (withTx [] [0#8] (initWaiting 1#8)).roomForFrame :=
  ⟨initWaiting_Inv, by decide, by decide, by decide, by decide, by decide, ⟨_, rfl⟩,
    ⟨by decide, ⟨by decide, by decide, by decide⟩, by decide, rfl, by decide, initWaiting_Inv.2.2.2.2.2⟩, by decide⟩

theorem witness_RdstateReads :
    (linked .fatal State.reset).lnk.link = .fatal ∧ State.reset.lnk.link ≠ .fatal ∧ (0#8).toNat < 1 ∧
    State.reset.cfg.channels < (9#8).toNat ∧ 1 ≤ (1#8).toNat ∧ (8#8).toNat ≤ State.reset.cfg.channels := by decide

theorem witness_ComposeTable : State.reset.lnk.link ≠ .fatal := by decide

theorem witness_Cmd2boolOutcome :
    (linked .fatal State.reset).lnk.link = .fatal ∧ State.reset.lnk.link ≠ .fatal ∧ 2 ≤ (2#4).toNat ∧ 2 ≤ (15#4).toNat := by decide

theorem witness_StepRunsDecodedInstruction :
    (given [.present (.hostCmd 0x30A0#16)] (opened Config.small)).env.schedule = .present (.hostCmd 0x30A0#16) :: [] ∧
    (opened Config.small).sqr.seq = .idle ∧ decode (.hostCmd 0x30A0#16) = .ok (.enq 0xA0#8) ∧
    decode (.relayFrame .fromRelay 0xA00600A6#32) = .ok (.fbOff 6#8 0xA6#8) ∧
    (∃ t, exec (.enq 0xA0#8) ((given [] (opened Config.small)).accept 0x30A0#16) = .next t) ∧
    (∃ t, exec (.fbOff 6#8 0xA6#8) (given [] (opened Config.small)).clearValid = .next t) ∧
    decode (.relayFrame .toRelay 0xA00600A7#32) = .error .badChecksum ∧
    decode (.relayFrame .fromRelay 0xA00602A8#32) = .error .notAState ∧
    (given [.present (.hostCmd 0#16)] (initWaiting 1#8)).sqr.seq ≠ .idle ∧
    (given [.present (.hostCmd 0#16)] (initWaiting 1#8)).env.schedule = .present (.hostCmd 0#16) :: [] :=
  ⟨rfl, rfl, by decide, by decide, ⟨_, rfl⟩, ⟨_, rfl⟩, by decide, by decide, by decide, rfl⟩

theorem witness_StepRunsAgents :
    (given [.deliver 1#8 true] (opened Config.small)).env.schedule = .deliver 1#8 true :: [] ∧
    (given [.seqClk true] State.reset).env.schedule = .seqClk true :: [] := by decide

/-- The three owing agents in turn, a clock cycle each. -/
def turns (k : Nat) : Input := if k % 3 = 0 then .seqClk true else if k % 3 = 1 then .txClk else .rxClk true

/-- The run of these inputs. -/
def turnsRun (s : State) : Nat → State
  | 0 => s
  | k + 1 => stepped ((turnsRun s k).offered (turns k))

theorem turnsRun_isRun (s : State) : isRun turns (turnsRun s) := by
  intro k
  simp only [turnsRun, turns]
  split
  · rfl
  · split <;> rfl

theorem turnsRun_fair (s : State) : weaklyFair turns (turnsRun s) := by
  intro a k _
  cases a with
  | seq => exact ⟨3 * k, by omega, .inl ⟨true, by simp [turns]⟩⟩
  | txLine => exact ⟨3 * k + 1, by omega, .inl (by simp [turns, Nat.add_mod])⟩
  | rxLine => exact ⟨3 * k + 2, by omega, ⟨true, by simp [turns, Nat.add_mod]⟩⟩

/-- While no operation is in progress these inputs leave the link as it is. -/
theorem turnsRun_opened (s : State) (h : s.sqr.seq = .idle ∧ s.lnk.link = .opened) (m : Nat) :
    (turnsRun s m).sqr.seq = .idle ∧ (turnsRun s m).lnk.link = .opened := by
  induction m with
  | zero => exact h
  | succ m ih =>
    have keep : ∀ u : State, u.sqr.seq = .idle → u.lnk.link = .opened →
        ((u.logResult (seqClock true u)).sqr.seq = .idle ∧ (u.logResult (seqClock true u)).lnk.link = .opened) ∧
        ((txClock u).sqr.seq = .idle ∧ (txClock u).lnk.link = .opened) ∧
        ((rxClock true u).sqr.seq = .idle ∧ (rxClock true u).lnk.link = .opened) := by
      intro u hs hl
      refine ⟨?_, ?_, ?_⟩
      · have e : seqClock true u = u := by simp [seqClock, hs]
        rw [e]
        unfold State.logResult
        split <;> exact ⟨hs, hl⟩
      · unfold txClock txStartStep txDoneStep
        repeat' split
        all_goals exact ⟨hs, hl⟩
      · unfold rxClock receiveSample sampleBit deliverByte stageByte
        repeat' split
        all_goals exact ⟨hs, hl⟩
    obtain ⟨h1, h2, h3⟩ := keep { (turnsRun s m).offered (turns m) with env := { (turnsRun s m).env with schedule := [] } } ih.1 ih.2
    simp only [turnsRun, turns]
    split
    · exact h1
    · split
      · exact h2
      · exact h3

/-- A fair run from INIT's wait, and one in which a byte stays staged until the line takes it. -/
theorem witness_FairRunsEndOperations :
    isRun turns (turnsRun (initWaiting 1#8)) ∧ weaklyFair turns (turnsRun (initWaiting 1#8)) ∧ (initWaiting 1#8).Inv ∧
    (initWaiting 1#8).attemptsBounded ∧ (initWaiting 1#8).sqr.seq ≠ .idle ∧
    isRun turns (turnsRun (withTx [] [7#8] (opened Config.small))) ∧
    weaklyFair turns (turnsRun (withTx [] [7#8] (opened Config.small))) ∧
    (∀ m ≥ 0, (turnsRun (withTx [] [7#8] (opened Config.small)) m).lnk.link = .opened) ∧
    (turnsRun (withTx [] [7#8] (opened Config.small)) 0).tx.txStage ≠ [] :=
  ⟨turnsRun_isRun _, turnsRun_fair _, initWaiting_Inv, by decide, by decide, turnsRun_isRun _, turnsRun_fair _,
    fun m _ => (turnsRun_opened _ (by decide) m).2, by decide⟩

theorem witness_ResetRestoresEverything : (given [.reset, .txClk] (initWaiting 1#8)).env.schedule = .reset :: [.txClk] := by decide

/-- An invariant state in which the next step ends INIT's first wait. -/
theorem witness_StepKeepsInvariant :
    (given [.waitEnd] (initWaiting 1#8)).Inv ∧ ∃ t, step (given [.waitEnd] (initWaiting 1#8)) = .next t :=
  ⟨initWaiting_Inv, ⟨_, rfl⟩⟩

theorem witness_InvariantsAtReset : Config.default.legal ∧ Config.small.legal := by decide

theorem witness_StepKeepsTransmitOrder :
    (given [.present (.hostCmd 0xA101#16)] (opened Config.small)).txOrder ∧
    ∃ t, step (given [.present (.hostCmd 0xA101#16)] (opened Config.small)) = .next t := ⟨by decide, ⟨_, rfl⟩⟩

theorem witness_StepKeepsReceiveOrder :
    (given [.deliver 7#8 true] (opened Config.small)).rxOrder ∧ (given [.deliver 7#8 true] (opened Config.small)).rxCount ∧
    ∃ t, step (given [.deliver 7#8 true] (opened Config.small)) = .next t := ⟨by decide, by decide, ⟨_, rfl⟩⟩

theorem witness_ParametersAndStickyFlags :
    (given [.deliver 7#8 false] (opened Config.small)).nextInput ≠ .reset ∧
    ∃ t, step (given [.deliver 7#8 false] (opened Config.small)) = .next t := ⟨by decide, ⟨_, rfl⟩⟩

theorem witness_FatalIsSticky :
    (given [.present (.hostCmd 0x2000#16)] (State.enterFatal .badBool State.reset)).lnk.link = .fatal ∧
    (given [.present (.hostCmd 0x2000#16)] (State.enterFatal .badBool State.reset)).sqr.seq = .idle ∧
    (given [.present (.hostCmd 0x2000#16)] (State.enterFatal .badBool State.reset)).nextInput ≠ .reset ∧
    ∃ t, step (given [.present (.hostCmd 0x2000#16)] (State.enterFatal .badBool State.reset)) = .next t :=
  ⟨by decide, by decide, by decide, ⟨_, rfl⟩⟩

theorem witness_StepKeepsResultLaw :
    resultLawful State.reset.res.cmd State.reset.res.err State.reset.res.val ∧
    ∃ t, step (given [.present (.hostCmd 0xC300#16)] State.reset) = .next t := ⟨by decide, ⟨_, rfl⟩⟩

theorem witness_LineParametersLegalAndFrozen :
    (∃ t, step (given [.present (.hostCmd 0x1007#16)] State.reset) = .next t) ∧ State.reset.csrLegal ∧
    (opened Config.small).lnk.link ≠ .closed ∧
    (given [.present (.hostCmd 0x1007#16)] (opened Config.small)).nextInput ≠ .reset ∧
    (given [.present (.hostCmd 0x1102#16)] State.reset).quietUntilOpen ∧
    (given [.present (.hostCmd 0x1102#16)] State.reset).rxFits :=
  ⟨⟨_, rfl⟩, by decide, by decide, by decide, by decide, by decide⟩

theorem witness_StepKeepsQuietUntilOpen :
    State.reset.sequencerAgrees ∧ (given [.present (.hostCmd 0x2000#16)] State.reset).quietUntilOpen ∧
    ∃ t, step (given [.present (.hostCmd 0x2000#16)] State.reset) = .next t :=
  ⟨by simp [State.sequencerAgrees, State.reset, State.resetWith], by decide, ⟨_, rfl⟩⟩

theorem witness_LinkChangesOnlyAsListed :
    (given [.seqClk false] (ranWord 0x2000#16 State.reset)).sequencerAgrees ∧
    (given [.seqClk false] (ranWord 0x2000#16 State.reset)).causeAgrees ∧
    (given [.seqClk false] (ranWord 0x2000#16 State.reset)).attemptsBounded ∧
    (given [.seqClk false] (ranWord 0x2000#16 State.reset)).nextInput ≠ .reset ∧ (given [.reset] State.reset).nextInput = .reset ∧
    ∃ t, step (given [.seqClk false] (ranWord 0x2000#16 State.reset)) = .next t :=
  ⟨rfl, by decide, by decide, by decide, by decide, ⟨_, rfl⟩⟩

theorem witness_ReceiveQueueStaysShort :
    (given [.present (.hostCmd 0xB000#16)] (withRx [1#8, 2#8, 3#8] [4#8] (opened Config.small))).rx.rxq.length ≤ 3 ∧
    (∃ t, step (given [.present (.hostCmd 0xB000#16)] (withRx [1#8, 2#8, 3#8] [4#8] (opened Config.small))) = .next t) ∧
    ∀ w : HostWord,
      (given [.present (.hostCmd 0xB000#16)] (withRx [1#8, 2#8, 3#8] [4#8] (opened Config.small))).nextInput =
        .present (.hostCmd w) → w.toNat / 4096 ≠ 5 := by
  refine ⟨by decide, ⟨_, rfl⟩, ?_⟩
  intro w h
  have hw : (Input.present (.hostCmd 0xB000#16)) = .present (.hostCmd w) := h
  simp at hw
  subst hw
  decide

theorem witness_DriverWrittenOnlyByDriver :
    mayWriteDriver (.frameCheck 1#8 0xA6#8) = false ∧ (∃ t, exec (.frameCheck 1#8 0xA6#8) tightOpen = .next t) ∧
    (∃ t, step (given [.seqClk false] (ranWord 0x2000#16 State.reset)) = .next t) ∧
    (given [.seqClk false] (ranWord 0x2000#16 State.reset)).nextInput = .seqClk false ∧
    (given [.seqClk false] (ranWord 0x2000#16 State.reset)).sqr.seq = .openTry ∧
    (∃ t, step (given [.present (.hostCmd 0x30A0#16)] (opened Config.small)) = .next t) ∧
    decode (.hostCmd 0x30A0#16) = .ok (.enq 0xA0#8) ∧ mayWriteDriver (.enq 0xA0#8) = false :=
  ⟨by decide, ⟨_, rfl⟩, ⟨_, rfl⟩, by decide, by decide, ⟨_, rfl⟩, by decide, by decide⟩

theorem witness_WaitsLastExactly :
    (initWaiting 1#8).sqr.seq = .sendWait ∧ (initWaiting 1#8).sqr.timer = 0 + 1 ∧
    (withSeq .openDelay 3 State.reset).sqr.seq = .openDelay ∧ (withSeq .openDelay 3 State.reset).sqr.timer = 2 + 1 ∧
    [true, false].length ≤ 2 ∧ [true, false, true].length = 2 + 1 ∧ State.reset.sqr.seq = .idle ∧
    (ranWord 0x2000#16 State.reset).sqr.seq = .openTry := by decide

theorem witness_DivisorValues : { Config.default with clkHz := 1844000 }.legal := by decide

theorem witness_CharacterTiming :
    (withTx [] [0xA0#8, 1#8] (opened Config.small)).cfg.legal ∧ (withTx [] [0xA0#8, 1#8] (opened Config.small)).lnk.link = .opened ∧
    (withTx [] [0xA0#8, 1#8] (opened Config.small)).tx.txSh = .idle ∧
    (withTx [] [0xA0#8, 1#8] (opened Config.small)).tx.txStage = 0xA0#8 :: [1#8] ∧
    (withTx [] [0xA0#8] (opened Config.small)).tx.txStage = 0xA0#8 :: [] := by decide

theorem witness_CharacterReadsBack :
    lineFmtLegal 0x00#8 = true ∧ lineFmtLegal 0x1B#8 = true ∧ (0x1B#8).toNat / 4 % 4 = 2 ∧ (0x05#8).toNat / 4 % 4 = 1 ∧
    lineFmtLegal 0x05#8 = true ∧ (List.replicate 6 true).length + 1 = charLength 0x00#8 := by decide

theorem witness_ReceiverFollowsWaveform :
    (opened Config.small).cfg.legal ∧ (opened Config.small).csrLegal ∧ (opened Config.small).lnk.link = .opened ∧
    (opened Config.small).rx.rxSh = .idle ∧ (opened Config.small).rx.rxPrev = true ∧ (opened Config.small).rx.rxSync1 = true ∧
    (opened Config.small).rx.rxSync2 = true ∧
    (false :: List.replicate 9 false).length = charLength (opened Config.small).csr.lineFmt ∧
    (false :: List.replicate 9 false).getLast? = some false ∧ 833 ≤ (opened Config.small).bitCycles / 2 ∧
    (opened Config.small).bitCycles / 2 + 3 ≤ 833 + 3 := by decide

theorem witness_OverrunKeepsNewest :
    (opened Config.small).lnk.link = .opened ∧ (sevenBits (opened Config.small)).lnk.link = .opened ∧
    0x20#8 = BitVec.ofNat 8 ((0xA0#8).toNat % 2 ^ (5 + (sevenBits (opened Config.small)).csr.lineFmt.toNat % 4)) ∧
    (withRx [] [1#8, 2#8, 3#8] (opened Config.small)).rx.rxStage.length < (opened Config.small).cfg.rxsDepth ∧
    (withRx [] [1#8, 2#8, 3#8, 4#8] (opened Config.small)).rx.rxStage = 1#8 :: [2#8, 3#8, 4#8] ∧
    (withRx [] [1#8, 2#8, 3#8, 4#8] (opened Config.small)).rx.rxStage.length = (opened Config.small).cfg.rxsDepth := by decide

theorem witness_LineQuietUnlessOpen :
    (opened Config.small).tx.txSh = .idle ∧ State.reset.lnk.link ≠ .opened ∧
    (withTx [] [7#8] (opened Config.small)).lnk.link = .opened ∧ (withTx [] [7#8] (opened Config.small)).tx.txStage = 7#8 :: [] ∧
    (txStartStep (withTx [] [7#8] (opened Config.small))).lnk.link = .opened ∧
    (txStartStep (withTx [] [7#8] (opened Config.small))).tx.txSh = .busy 7#8 (charBits 0x03#8 7#8) 0 1667 := by decide

theorem witness_RingRefinesQueue :
    List.replicate 1 0#8 ≠ [] ∧ [7#8, 9#8] ≠ [] ∧ (Ring.blank 1).wf ∧ (Ring.wf { store := [1#8, 2#8], rd := 1, wr := 1, occ := 2 }) ∧
    (Ring.contents { store := [1#8, 2#8], rd := 1, wr := 1, occ := 2 }) = 2#8 :: [1#8] ∧
    (Ring.contents { store := [1#8, 2#8], rd := 1, wr := 0, occ := 1 }).length < 2 := by decide

end Sys2Proof.Tests
end

/-!
What lasts from step to step: the static parameters, which nothing writes (spec/00_scope.md R6), and the two sticky flags
of `STATUS`, which only a reset clears (spec/10_state.md R35; spec/60_exceptions.md R278).
-/

namespace Sys2Proof.Machine

/-! ## The line engine's steps: parameters and link registers -/

@[simp] theorem txStartStep_cfg (s : State) : (txStartStep s).cfg = s.cfg := by
  unfold txStartStep
  split <;> rfl

@[simp] theorem txStartStep_lnk (s : State) : (txStartStep s).lnk = s.lnk := by
  unfold txStartStep
  split <;> rfl

@[simp] theorem txDoneStep_cfg (s : State) : (txDoneStep s).cfg = s.cfg := by
  unfold txDoneStep
  split <;> rfl

@[simp] theorem txDoneStep_lnk (s : State) : (txDoneStep s).lnk = s.lnk := by
  unfold txDoneStep
  split <;> rfl

@[simp] theorem stageByte_cfg (b : Byte) (s : State) : (stageByte b s).cfg = s.cfg := by
  unfold stageByte
  split <;> rfl

@[simp] theorem stageByte_lnk (b : Byte) (s : State) :
    (stageByte b s).lnk =
      { s.lnk with overrun := decide (s.rx.rxStage.length = s.cfg.rxsDepth) || s.lnk.overrun } := by
  unfold stageByte
  split <;> simp [*]

/-! ## Moves -/

theorem move_cfg {s t : State} (m : Move s t) : t.cfg = s.cfg := by
  cases m with
  | txStart => exact txStartStep_cfg s
  | txDone => exact txDoneStep_cfg s
  | stage b _ => exact stageByte_cfg b s
  | control | link | log | env | csr | relay | lastChannel | push | flush | poll | take | shift | drop | record | rxShift
  | sync => rfl

/-- A bad character alone writes LINE_ERR, and it sets it; a byte staged alone writes OVERRUN, and it only ever sets it. -/
theorem move_keeps_flags {s t : State} (m : Move s t) :
    (s.lnk.overrun = true → t.lnk.overrun = true) ∧ (s.lnk.lineErr = true → t.lnk.lineErr = true) := by
  cases m with
  | txStart => simp
  | txDone => simp
  | stage b _ =>
    rw [stageByte_lnk]
    exact ⟨fun set => by simp [set], id⟩
  | drop => exact ⟨id, fun _ => rfl⟩
  | control | link | log | env | csr | relay | lastChannel | push | flush | poll | take | shift | record | rxShift | sync =>
    exact ⟨id, id⟩

theorem moves_cfg {s t : State} (h : Moves s t) : t.cfg = s.cfg :=
  h.keeps (P := fun u => u.cfg = s.cfg) (fun _ _ m hu => (move_cfg m).trans hu) rfl

theorem moves_keeps_overrun {s t : State} (h : Moves s t) : s.lnk.overrun = true → t.lnk.overrun = true :=
  h.keeps (P := fun u => u.lnk.overrun = true) fun _ _ m => (move_keeps_flags m).1

theorem moves_keeps_lineErr {s t : State} (h : Moves s t) : s.lnk.lineErr = true → t.lnk.lineErr = true :=
  h.keeps (P := fun u => u.lnk.lineErr = true) fun _ _ m => (move_keeps_flags m).2

/-! ## Steps -/

@[simp] theorem afterInput_cfg (s : State) : s.afterInput.cfg = s.cfg := moves_cfg (moves_afterInput s)

/-- A step's two kinds: a reset builds the reset state with the parameters it finds, every other step is made of moves. -/
theorem step_cfg {s t : State} (h : step s = .next t) : t.cfg = s.cfg := by
  rcases step_moves h with ⟨-, rfl⟩ | ⟨-, hm⟩
  · rw [hardReset_cfg, afterInput_cfg]
  · exact moves_cfg hm

theorem moves_of_step {s t : State} (hr : s.nextInput ≠ .reset) (h : step s = .next t) : Moves s t := by
  rcases step_moves h with ⟨reset, -⟩ | ⟨-, hm⟩
  · exact absurd reset hr
  · exact hm

/-- Settles O44: no move writes a parameter or clears a sticky flag, and a reset writes no parameter. -/
theorem parametersAndStickyFlags : Obligations.ParametersAndStickyFlags := by
  intro s t h
  refine ⟨step_cfg h, fun hr => ?_⟩
  have hm := moves_of_step hr h
  exact ⟨moves_keeps_overrun hm, moves_keeps_lineErr hm⟩

/-- The state after reset but with both sticky flags set, and OPEN presented to it. -/
def stickyFlagsSet : State :=
  { State.reset with
    lnk := { State.reset.lnk with overrun := true, lineErr := true }
    env := { State.reset.env with schedule := [.present (.hostCmd 0x2000#16)] } }

theorem stickyFlagsSet_step :
    ∃ t, step stickyFlagsSet = .next t ∧ t.cfg = Config.default ∧ t.lnk.overrun = true ∧ t.lnk.lineErr = true := by
  have hr : stickyFlagsSet.nextInput ≠ .reset := by decide
  have hs : ∃ t, step stickyFlagsSet = .next t := ⟨_, rfl⟩
  obtain ⟨t, ht⟩ := hs
  obtain ⟨hcfg, hflags⟩ := parametersAndStickyFlags _ _ ht
  obtain ⟨hoverrun, hlineErr⟩ := hflags hr
  exact ⟨t, ht, hcfg, hoverrun rfl, hlineErr rfl⟩

end Sys2Proof.Machine

/-!
How long a wait lasts (spec/10_state.md R24, R26), and the state after reset (spec/10_state.md R52).
-/

namespace Sys2Proof.Machine

/-! ## Waits -/

/-- A wait is in progress: the answer wait or the open retry delay (10_state.md R26). -/
abbrev State.waiting (s : State) : Prop := s.sqr.seq = .sendWait ∨ s.sqr.seq = .openDelay

/-- The state with `timer` set. -/
def State.withTimer (n : Nat) (s : State) : State := { s with sqr := { s.sqr with timer := n } }

theorem withTimer_self {n : Nat} {s : State} (h : s.sqr.timer = n) : s.withTimer n = s := by
  subst h
  rfl

theorem withTimer_tick (n : Nat) (s : State) : s.tick.withTimer n = s.withTimer n := rfl

theorem seqClock_of_one_lt_timer (d : Bool) {s : State} (hw : s.waiting) (ht : 1 < s.sqr.timer) : seqClock d s = s.tick := by
  rcases hw with hq | hq
  · simp [seqClock, hq, ht]
  · simp [seqClock, hq, ht]

theorem seqClock_of_timer_le_one (d : Bool) {s : State} (hw : s.waiting) (ht : s.sqr.timer ≤ 1) :
    seqClock d s = waitEnds s := by
  rcases hw with hq | hq
  · simp [seqClock, waitEnds, hq, ht]
  · simp [seqClock, waitEnds, hq, ht]

/-- Up to the last cycle of a wait, each cycle takes one off `timer` and does nothing else. -/
theorem foldl_seqClock_counts (ds : List Bool) {s : State} {n : Nat} (hw : s.waiting) (ht : s.sqr.timer = n + 1)
    (hn : ds.length ≤ n) : ds.foldl (fun u d => seqClock d u) s = s.withTimer (n + 1 - ds.length) := by
  induction ds generalizing s n with
  | nil => exact (withTimer_self ht).symm
  | cons d ds ih =>
    obtain ⟨m, rfl⟩ : ∃ m, n = m + 1 := ⟨n - 1, by simp at hn; omega⟩
    have hm : ds.length ≤ m := by simpa using hn
    have hc : m + 1 + 1 - (ds.length + 1) = m + 1 - ds.length := by omega
    rw [List.foldl_cons, seqClock_of_one_lt_timer d hw (by omega), ih (s := s.tick) hw (by simp [ht]) hm, withTimer_tick,
      List.length_cons, hc]

/-- The cycle after those ends the wait. -/
theorem foldl_seqClock_ends (ds : List Bool) {s : State} {n : Nat} (hw : s.waiting) (ht : s.sqr.timer = n + 1)
    (hn : ds.length = n + 1) : ds.foldl (fun u d => seqClock d u) s = waitEnds (s.withTimer 1) := by
  rcases ds.eq_nil_or_concat with rfl | ⟨before, last, rfl⟩
  · simp at hn
  · have hb : before.length = n := by simpa using hn
    rw [List.concat_eq_append, List.foldl_concat, foldl_seqClock_counts before hw ht hb.le, hb, Nat.add_sub_cancel_left]
    exact seqClock_of_timer_le_one last hw le_rfl

theorem seqClock_idle (d : Bool) {s : State} (h : s.sqr.seq = .idle) : seqClock d s = s := by simp [seqClock, h]

theorem waitEnds_idle {s : State} (h : s.sqr.seq = .idle) : waitEnds s = s := by simp [waitEnds, h]

theorem waitEnds_openTry {s : State} (h : s.sqr.seq = .openTry) : waitEnds s = s := by simp [waitEnds, h]

theorem waitEnds_sendWait {s : State} (h : s.sqr.seq = .sendWait) : waitEnds s = answerWaitEnds s := by simp [waitEnds, h]

/-- Settles O52: all cycles of a wait but the last count down, by induction on them, and the last one is the untimed end. -/
theorem waitsLastExactly : Obligations.WaitsLastExactly := by
  refine ⟨fun s n ds hw ht => ⟨foldl_seqClock_counts ds hw ht, foldl_seqClock_ends ds hw ht⟩, fun s d => ?_⟩
  exact ⟨fun h => ⟨seqClock_idle d h, waitEnds_idle h⟩, waitEnds_openTry, waitEnds_sendWait⟩

/-! ## Reset -/

theorem resetWith_inv {c : Config} (h : c.legal) : (State.resetWith c).Inv := by
  have bounds : (State.resetWith c).withinBounds := ⟨memory_wf_resetWith c, .inl rfl, Nat.zero_le _⟩
  have registers : (State.resetWith c).registersPresent := List.length_replicate
  have agrees : (State.resetWith c).sequencerAgrees := by simp [State.sequencerAgrees, State.resetWith]
  have init : (State.resetWith c).initAgrees := by simp [State.resetWith]
  have timer : (State.resetWith c).timerAgrees := ⟨Nat.two_pow_pos _, by simp [State.resetWith]⟩
  exact ⟨h, bounds, registers, agrees, init, timer⟩

theorem resetWith_csrLegal (c : Config) : (State.resetWith c).csrLegal := by
  have legal : baudSelLegal 0x03#8 = true ∧ lineFmtLegal 0x03#8 = true := by decide
  exact legal

/-- An empty receive side fits every line format. -/
theorem rxFits_of_nil {s : State} (h : s.rx.rxq ++ s.rx.rxStage = []) : s.rxFits := by simp [State.rxFits, h]

/-- Settles O41: every queue and history is empty, the link CLOSED and the sequencer IDLE. -/
theorem invariantsAtReset : Obligations.InvariantsAtReset := by
  intro c h s
  have cause : s.causeAgrees := ⟨fun _ => nofun, fun _ => rfl⟩
  have quiet : s.quietUntilOpen := fun _ => ⟨rfl, rfl, rfl, rfl, rfl, rfl⟩
  exact ⟨resetWith_inv h, rxFits_of_nil rfl, rfl, List.Sublist.refl _, rfl, resetWith_csrLegal c, nofun, quiet, cause,
    lawful_value 0#16⟩

end Sys2Proof.Machine

/-!
What stands around an operation in a step: the next input, and a code word presented to the sequencer
(spec/10_state.md R25, R29, R51).
-/

namespace Sys2Proof.Machine

/-! ## The next input -/

theorem nextInput_cons {s : State} {n : Input} {rest : List Input} (h : s.env.schedule = n :: rest) : s.nextInput = n := by
  simp [State.nextInput, h]

theorem afterInput_cons {s : State} {n : Input} {rest : List Input} (h : s.env.schedule = n :: rest) :
    s.afterInput = { s with env := { s.env with schedule := rest } } := by
  simp [State.afterInput, h]

theorem fetch_cons {s : State} {n : Input} {rest : List Input} (h : s.env.schedule = n :: rest) :
    fetch s = react n { s with env := { s.env with schedule := rest } } := by
  rw [fetch, nextInput_cons h, afterInput_cons h]

/-! ## A code word presented -/

theorem hcReady_eq_false {s : State} (h : s.sqr.seq ≠ .idle) : s.hcReady = false := by simp [State.hcReady, h]

theorem present_notReady (c : CodeWord) {s : State} (h : s.sqr.seq ≠ .idle) : present c s = .done s := by
  simp [present, hcReady_eq_false h]

theorem present_hostCmd (w : HostWord) {s : State} (h : s.sqr.seq = .idle) :
    present (.hostCmd w) s = .run (decodeHost w) (s.accept w) true := by
  simp [present, State.hcReady, h]

theorem present_relayFrame {d : Direction} {w : FrameWord} {i : Instr} {s : State} (h : s.sqr.seq = .idle)
    (hd : decode (.relayFrame d w) = .ok i) : present (.relayFrame d w) s = .run i s.clearValid false := by
  cases d with
  | toRelay =>
    have row : decodeCommandFrame (Frame.ofWord w) = .ok i := hd
    simp [present, State.hcReady, h, row]
  | fromRelay =>
    have row : decodeFeedbackFrame (Frame.ofWord w) = .ok i := hd
    simp [present, State.hcReady, h, row]

theorem present_notCommandFrame {w : FrameWord} {e : DecodeError} {s : State} (h : s.sqr.seq = .idle)
    (hd : decode (.relayFrame .toRelay w) = .error e) : present (.relayFrame .toRelay w) s = .notAFrame := by
  have row : decodeCommandFrame (Frame.ofWord w) = .error e := hd
  simp [present, State.hcReady, h, row]

theorem present_window {w : FrameWord} {e : DecodeError} {s : State} (h : s.sqr.seq = .idle)
    (hd : decode (.relayFrame .fromRelay w) = .error e) :
    present (.relayFrame .fromRelay w) s = .done (feedbackFrameOp (Frame.ofWord w) s.clearValid) := by
  have row : decodeFeedbackFrame (Frame.ofWord w) = .error e := hd
  simp [present, State.hcReady, h, row]

/-! ## A step that takes a code word -/

theorem logResult_of_not_valid {s : State} (t : State) (h : s.res.valid = false) :
    s.logResult t =
      if t.res.valid then
        { t with
          hist := { t.hist with
            opLog := t.hist.opLog ++ [{ op := t.sqr.pendOp, cmd := t.res.cmd, err := t.res.err, val := t.res.val }] } }
      else t := by
  simp [State.logResult, h]

theorem step_of_run {s t u : State} {i : Instr} {hostOp : Bool} (hf : fetch s = .run i u hostOp) (he : exec i u = .next t) :
    step s = .next (if hostOp then u.logResult t else t) := by
  simp only [step, hf, he, afterExec]

theorem step_of_done {s t : State} (hf : fetch s = .done t) : step s = .next t := by simp only [step, hf]

theorem step_of_notAFrame {s : State} (hf : fetch s = .notAFrame) : step s = .refused .notCommandFrame := by
  simp only [step, hf]

/-- Settles O35: by what `present` answers for a command word, a frame that is a row, one that is none, and a port that is not
ready. -/
theorem stepRunsDecodedInstruction : Obligations.StepRunsDecodedInstruction := by
  refine ⟨?word, ?frame, ?noRow, ?notReady⟩
  case word =>
    intro s t w rest i taken idle hd he
    obtain rfl : decodeHost w = i := Except.ok.inj hd
    rw [step_of_run ((fetch_cons taken).trans (present_hostCmd w idle)) he, if_pos rfl, logResult_of_not_valid t rfl]
  case frame =>
    intro s t d w rest i taken idle hd he
    exact step_of_run ((fetch_cons taken).trans (present_relayFrame idle hd)) he
  case noRow =>
    intro s d w rest e taken idle hd
    refine ⟨?_, ?_⟩
    · rintro rfl
      exact step_of_notAFrame ((fetch_cons taken).trans (present_notCommandFrame idle hd))
    · rintro rfl
      exact step_of_done ((fetch_cons taken).trans (present_window idle hd))
  case notReady =>
    intro s c rest busy taken
    exact ⟨hcReady_eq_false busy, step_of_done ((fetch_cons taken).trans (present_notReady c busy))⟩

end Sys2Proof.Machine

/-!
What the agents write, said once: the line engine its own registers, the sequencer's data operations neither the link nor new
received bytes, and an instruction or a cycle of the sequencer one of a few effects beside that.
-/

namespace Sys2Proof.Machine

/-! ## The line engine -/

/-- Only the queues, the shifters, the two sticky flags and the histories are written: what the line engine may do
(41_line_engine.md R160 to R172). -/
def LineStep (s t : State) : Prop :=
  ∃ (q : TxPath) (r : RxPath) (o e : Bool) (h : History),
    t = { s with tx := q, rx := r, lnk := { s.lnk with overrun := o, lineErr := e }, hist := h }

theorem LineStep.refl (s : State) : LineStep s s := ⟨s.tx, s.rx, s.lnk.overrun, s.lnk.lineErr, s.hist, rfl⟩

theorem LineStep.trans {s t u : State} (h : LineStep s t) (h' : LineStep t u) : LineStep s u := by
  obtain ⟨_, _, _, _, _, rfl⟩ := h
  obtain ⟨q, r, o, e, l, rfl⟩ := h'
  exact ⟨q, r, o, e, l, rfl⟩

theorem lineStep_txStartStep (s : State) : LineStep s (txStartStep s) := by
  unfold txStartStep
  split
  · exact ⟨_, s.rx, s.lnk.overrun, s.lnk.lineErr, s.hist, rfl⟩
  · exact .refl s

theorem lineStep_txDoneStep (s : State) : LineStep s (txDoneStep s) := by
  unfold txDoneStep
  split
  · exact ⟨_, s.rx, s.lnk.overrun, s.lnk.lineErr, _, rfl⟩
  · exact .refl s

theorem lineStep_shiftTo (b : Byte) (c : List Bool) (k p : Nat) (s : State) : LineStep s (s.shiftTo b c k p) :=
  ⟨_, s.rx, s.lnk.overrun, s.lnk.lineErr, s.hist, rfl⟩

theorem lineStep_txClock (s : State) : LineStep s (txClock s) := by
  unfold txClock
  split
  · split
    · exact lineStep_shiftTo _ _ _ _ s
    split
    · exact lineStep_shiftTo _ _ _ _ s
    · exact (lineStep_txDoneStep s).trans (lineStep_txStartStep _)
  · exact lineStep_txStartStep s
  · exact .refl s

theorem lineStep_stageByte (b : Byte) (s : State) : LineStep s (stageByte b s) := by
  unfold stageByte
  split
  · exact ⟨s.tx, _, true, s.lnk.lineErr, _, rfl⟩
  · exact ⟨s.tx, _, s.lnk.overrun, s.lnk.lineErr, _, rfl⟩

theorem lineStep_recordIn (b : Byte) (s : State) : LineStep s (s.recordIn b) :=
  ⟨s.tx, s.rx, s.lnk.overrun, s.lnk.lineErr, _, rfl⟩

theorem lineStep_dropByte (s : State) : LineStep s (dropByte s) := ⟨s.tx, s.rx, s.lnk.overrun, true, s.hist, rfl⟩

theorem lineStep_deliverByte (b : Byte) (good : Bool) (s : State) : LineStep s (deliverByte b good s) := by
  unfold deliverByte
  split
  · split
    · exact (lineStep_recordIn b s).trans (lineStep_stageByte _ _)
    · exact (lineStep_recordIn b s).trans (lineStep_dropByte _)
  · exact .refl s

theorem lineStep_rx (r : RxPath) (s : State) : LineStep s { s with rx := r } :=
  ⟨s.tx, r, s.lnk.overrun, s.lnk.lineErr, s.hist, rfl⟩

theorem lineStep_receiveSample (x : Bool) (s : State) : LineStep s (receiveSample x s) := by
  unfold receiveSample sampleBit
  repeat' split
  · exact lineStep_rx _ s
  · exact .refl s
  · exact lineStep_rx _ s
  · exact lineStep_rx _ s
  · exact lineStep_rx _ s
  · exact lineStep_rx _ s
  · exact (lineStep_rx _ s).trans (lineStep_deliverByte _ _ _)

theorem lineStep_rxClock (x : Bool) (s : State) : LineStep s (rxClock x s) := by
  unfold rxClock
  split
  · exact (lineStep_receiveSample _ s).trans (lineStep_rx _ _)
  · exact .refl s

section LinkNotOpen

variable {s : State} (shut : s.lnk.link ≠ .opened)
include shut

theorem linkOpen_eq_false : s.linkOpen = false := by simpa [State.linkOpen] using shut

theorem txStartStep_of_not_open : txStartStep s = s := by simp [txStartStep, linkOpen_eq_false shut]

theorem txDoneStep_of_not_open : txDoneStep s = s := by simp [txDoneStep, linkOpen_eq_false shut]

theorem txClock_of_not_open : txClock s = s := by simp [txClock, linkOpen_eq_false shut]

theorem rxClock_of_not_open (x : Bool) : rxClock x s = s := by simp [rxClock, linkOpen_eq_false shut]

theorem deliverByte_of_not_open (b : Byte) (good : Bool) : deliverByte b good s = s := by
  simp [deliverByte, linkOpen_eq_false shut]

end LinkNotOpen

/-! ## Data operations -/

/-- Neither the link registers are written nor is a byte received: what the driver and the queue operations keep. -/
structure DataOp (s t : State) : Prop where
  lnk : t.lnk = s.lnk
  received : t.rx.rxq ++ t.rx.rxStage ⊆ s.rx.rxq ++ s.rx.rxStage

theorem DataOp.of_eq {s t : State} (lnk : t.lnk = s.lnk) (rx : t.rx = s.rx) : DataOp s t := by
  refine ⟨lnk, ?_⟩
  rw [rx]
  exact List.Subset.refl _

theorem DataOp.refl (s : State) : DataOp s s := .of_eq rfl rfl

theorem DataOp.trans {s t u : State} (h : DataOp s t) (h' : DataOp t u) : DataOp s u :=
  ⟨h'.lnk.trans h.lnk, List.Subset.trans h'.received h.received⟩

theorem dataOp_finish (r : OpResult) (s : State) : DataOp s (s.finish r) := .of_eq rfl rfl

theorem dataOp_predicted (cmd : BitVec 4) (ch : Byte) (s : State) : DataOp s (predicted cmd ch s) := .of_eq rfl rfl

theorem dataOp_startWait (q : Seq) (n : Nat) (s : State) : DataOp s (s.startWait q n) := .of_eq rfl rfl

theorem dataOp_waitOver (s : State) : DataOp s s.waitOver := .of_eq rfl rfl

theorem dataOp_initBegin (s : State) : DataOp s s.initBegin := .of_eq rfl rfl

theorem dataOp_initNext (s : State) : DataOp s s.initNext := .of_eq rfl rfl

theorem dataOp_countErr (r : OpResult) (s : State) : DataOp s (s.countErr r) := .of_eq rfl rfl

theorem dataOp_pollRx (s : State) : DataOp s s.pollRx := by
  refine ⟨rfl, ?_⟩
  simp [List.append_assoc]

theorem dataOp_takeRx (n : Nat) (s : State) : DataOp s (s.takeRx n) := by
  have queued : s.rx.rxq.drop n ⊆ s.rx.rxq ++ s.rx.rxStage :=
    List.Subset.trans (List.drop_subset n _) (List.subset_append_left _ _)
  exact ⟨rfl, List.append_subset.2 ⟨queued, List.subset_append_right _ _⟩⟩

theorem enqueue_frame (b : Byte) (s : State) :
    ∃ (q : TxPath) (h : History), (s.enqueue b).1 = { s with tx := q, hist := h } := by
  unfold State.enqueue
  split
  · exact ⟨s.tx, s.hist, rfl⟩
  · exact ⟨_, _, rfl⟩

theorem dataOp_transmitFrame (f : Frame) (s : State) : DataOp s (transmitFrame f s).1 := by
  obtain ⟨q, h, e, -⟩ := transmitFrame_frame f s
  rw [e]
  exact .of_eq rfl rfl

theorem dataOp_sendOut (cmd : BitVec 4) (ch : Byte) (s : State) : DataOp s (sendOut cmd ch s).1 :=
  (dataOp_predicted cmd ch s).trans (dataOp_transmitFrame _ _)

theorem dataOp_evalWindow (f : Frame) (s : State) : DataOp s (evalWindow f s).1 := by
  rw [(evalWindow_frame f s).1]
  exact .of_eq rfl rfl

theorem dataOp_recvFrom (s : State) : DataOp s (recvFrom s).1 := by
  unfold recvFrom
  dsimp only
  split
  · exact dataOp_pollRx s
  · exact ((dataOp_pollRx s).trans (dataOp_takeRx _ _)).trans (dataOp_evalWindow _ _)

theorem dataOp_sendFrom (cmd : BitVec 4) (ch : Byte) (s : State) : DataOp s (sendFrom cmd ch s).1 := by
  have out := dataOp_sendOut cmd ch s
  unfold sendFrom
  split
  · exact .refl s
  split
  · exact .refl s
  dsimp only
  generalize sendOut cmd ch s = p at out ⊢
  split
  · exact out
  split
  · exact out
  split
  · exact out
  split
  · exact out.trans (dataOp_recvFrom _)
  · exact out.trans (dataOp_startWait _ _ _)

theorem dataOp_initLoop (n : Nat) (s : State) : DataOp s (initLoop n s) := by
  induction n generalizing s with
  | zero => exact .of_eq rfl rfl
  | succ n ih =>
    have send : DataOp s (sendFrom (commandCode .check) s.initNext.sqr.initCh s.initNext).1 :=
      (dataOp_initNext s).trans (dataOp_sendFrom _ _ _)
    simp only [initLoop]
    split
    · rename_i t e
      rwa [e] at send
    · rename_i t r e
      rw [e] at send
      exact (send.trans (dataOp_countErr r t)).trans (ih _)

theorem dataOp_answerWaitEnds (s : State) : DataOp s (answerWaitEnds s) := by
  have recv : DataOp s (recvFrom s.waitOver).1 := (dataOp_waitOver s).trans (dataOp_recvFrom _)
  simp only [answerWaitEnds]
  split
  · exact (recv.trans (dataOp_countErr _ _)).trans (dataOp_initLoop _ _)
  · exact recv.trans (dataOp_finish _ _)

theorem dataOp_sendOp (cmd : BitVec 4) (ch : Byte) (s : State) : DataOp s (sendOp cmd ch s) := by
  have send := dataOp_sendFrom cmd ch s
  unfold sendOp
  split
  · exact dataOp_finish _ s
  split
  · rename_i t r e
    rw [e] at send
    exact send.trans (dataOp_finish _ _)
  · rename_i t e
    rwa [e] at send

theorem dataOp_feedbackFrameOp (f : Frame) (s : State) : DataOp s (feedbackFrameOp f s) := by
  unfold feedbackFrameOp
  split
  · exact dataOp_finish _ s
  · exact (dataOp_evalWindow f s).trans (dataOp_finish _ _)

/-! ## Instructions -/

/-- What instruction `i` may do: a data operation, by which only an instruction of the driver writes the driver's registers; an
OPEN begun; the fatal state entered. -/
inductive ExecEffect (i : Instr) (s : State) : State → Prop where
  | data {t : State} (op : DataOp s t) (driver : mayWriteDriver i = false → t.drv = s.drv) : ExecEffect i s t
  | opening (closed : s.lnk.link = .closed) (allowed : s.csr.maxAttempts ≠ 0#8) :
      ExecEffect i s
        { s with lnk := { s.lnk with link := .opening }, sqr := { s.sqr with attempts := 1#8, seq := .openTry } }
  | fatal {cause : FCause} (named : cause ≠ .none) : ExecEffect i s (s.enterFatal cause)

theorem ExecEffect.finish {i : Instr} {s u : State} (r : OpResult) (op : DataOp s u) (drv : u.drv = s.drv) :
    ExecEffect i s (u.finish r) :=
  .data (op.trans (dataOp_finish r u)) fun _ => drv

theorem ExecEffect.ended {i : Instr} {s : State} (r : OpResult) : ExecEffect i s (s.finish r) := .finish r (.refl s) rfl

theorem ExecEffect.raised {i : Instr} {s : State} (e : ErrCode) : ExecEffect i s (s.raise e) := .ended (.error e)

theorem ExecEffect.ofDriver {i : Instr} {s t : State} (op : DataOp s t) (h : mayWriteDriver i = true) : ExecEffect i s t :=
  .data op fun h' => absurd (h.symm.trans h') nofun

theorem execEffect_commandFrameOp (i : Instr) (f : Frame) (s : State) : ExecEffect i s (commandFrameOp f s) := by
  obtain ⟨q, h, e, -⟩ := transmitFrame_frame f s
  have drv : (transmitFrame f s).1.drv = s.drv := by rw [e]
  unfold commandFrameOp
  split
  · exact .raised _
  split
  · exact .finish _ (dataOp_transmitFrame f s) drv
  · exact .finish _ (dataOp_transmitFrame f s) drv

theorem exec_effect (i : Instr) (s : State) : ∃ t, exec i s = .next t ∧ ExecEffect i s t := by
  cases i with
  | reserved0 =>
    simp only [exec, execReserved0]
    split
    · exact ⟨_, rfl, .raised _⟩
    · exact ⟨_, rfl, .raised _⟩
  | cfgwr a v =>
    simp only [exec, execCfgwr]
    split
    · exact ⟨_, rfl, .raised _⟩
    split
    · exact ⟨_, rfl, .raised _⟩
    split
    · exact ⟨_, rfl, .raised _⟩
    split
    · exact ⟨_, rfl, .raised _⟩
    · exact ⟨_, rfl, .finish _ (.of_eq (t := s.writeCsr a v) rfl rfl) rfl⟩
  | openLink =>
    simp only [exec, execOpenLink]
    split
    · exact ⟨_, rfl, .raised _⟩
    rename_i closed
    split
    · exact ⟨_, rfl, .fatal nofun⟩
    · rename_i allowed
      exact ⟨_, rfl, .opening (not_not.1 closed) allowed⟩
  | enq b =>
    obtain ⟨q, h, e⟩ := enqueue_frame b s
    simp only [exec, execEnq, e]
    split
    · exact ⟨_, rfl, .raised _⟩
    · exact ⟨_, rfl, .finish _ (.of_eq (s := s) rfl rfl) rfl⟩
  | flush =>
    simp only [exec, execFlush]
    split
    · exact ⟨_, rfl, .raised _⟩
    · exact ⟨_, rfl, .finish _ (.of_eq (t := s.flushTx) rfl rfl) rfl⟩
  | poll =>
    simp only [exec, execPoll]
    split
    · exact ⟨_, rfl, .raised _⟩
    · exact ⟨_, rfl, .finish _ (dataOp_pollRx s) rfl⟩
  | deq =>
    simp only [exec, execDeq]
    split
    · exact ⟨_, rfl, .raised _⟩
    split
    · exact ⟨_, rfl, .raised _⟩
    · exact ⟨_, rfl, .finish _ (dataOp_takeRx 1 s) rfl⟩
  | pendw =>
    simp only [exec, execPendw]
    split
    · exact ⟨_, rfl, .raised _⟩
    · exact ⟨_, rfl, .ended _⟩
  | pendr =>
    simp only [exec, execPendr]
    split
    · exact ⟨_, rfl, .raised _⟩
    · exact ⟨_, rfl, .ended _⟩
  | init =>
    simp only [exec, execInit]
    split
    · exact ⟨_, rfl, .raised _⟩
    · exact ⟨_, rfl, .ofDriver ((dataOp_initBegin s).trans (dataOp_initLoop _ _)) rfl⟩
  | recv =>
    simp only [exec, execRecv]
    split
    · exact ⟨_, rfl, .raised _⟩
    · exact ⟨_, rfl, .ofDriver ((dataOp_recvFrom s).trans (dataOp_finish _ _)) rfl⟩
  | compose r fb =>
    simp only [exec, execCompose]
    split
    · exact ⟨_, rfl, .raised _⟩
    · exact ⟨_, rfl, .ended _⟩
  | cmd2bool cmd =>
    simp only [exec, execCmd2bool]
    split
    · exact ⟨_, rfl, .raised _⟩
    split
    · exact ⟨_, rfl, .ended _⟩
    split
    · exact ⟨_, rfl, .ended _⟩
    · exact ⟨_, rfl, .fatal nofun⟩
  | rdstate ch =>
    simp only [exec, execRdstate]
    split
    · exact ⟨_, rfl, .raised _⟩
    split
    · exact ⟨_, rfl, .raised _⟩
    · exact ⟨_, rfl, .ended _⟩
  | rdcsr a =>
    simp only [exec, execRdcsr]
    split
    · exact ⟨_, rfl, .ended _⟩
    · exact ⟨_, rfl, .raised _⟩
  | send | sendOff | sendOn | sendOffCheck | sendOnCheck | sendNegateCheck | sendCheck | sendNone | sendError
  | sendReserved => exact ⟨_, rfl, .ofDriver (dataOp_sendOp _ _ s) rfl⟩
  | frameOff | frameOn | frameOffCheck | frameOnCheck | frameNegateCheck | frameCheck =>
    exact ⟨_, rfl, execEffect_commandFrameOp _ _ s⟩
  | fbOff | fbOn => exact ⟨_, rfl, .ofDriver (dataOp_feedbackFrameOp _ s) rfl⟩

theorem ExecEffect.of_exec {i : Instr} {s t : State} (h : exec i s = .next t) : ExecEffect i s t := by
  obtain ⟨u, hu, effect⟩ := exec_effect i s
  obtain rfl : u = t := Host.Outcome.next.inj (hu.symm.trans h)
  exact effect

/-! ## The sequencer -/

/-- What a cycle of the sequencer, or the untimed end of a wait, may do. -/
inductive SeqEffect (s : State) : State → Prop where
  | rest : SeqEffect s s
  | counted : SeqEffect s s.tick
  | opened (r : OpResult) (trying : s.sqr.seq = .openTry) :
      SeqEffect s (State.finish r { s with lnk := { s.lnk with link := .opened } })
  | failed (trying : s.sqr.seq = .openTry) : SeqEffect s (s.enterFatal .openFail)
  | delayed (n : Nat) (trying : s.sqr.seq = .openTry) (left : s.sqr.attempts ≠ s.csr.maxAttempts) :
      SeqEffect s (s.startWait .openDelay n)
  | attempted (left : s.sqr.seq = .openDelay ∨ s.sqr.seq = .openTry ∧ s.sqr.attempts ≠ s.csr.maxAttempts) :
      SeqEffect s s.openAttempt
  | answered (waiting : s.sqr.seq = .sendWait) : SeqEffect s (answerWaitEnds s)

theorem seqEffect_openSample (d : Bool) {s : State} (trying : s.sqr.seq = .openTry) : SeqEffect s (openSample d s) := by
  unfold openSample
  split
  · exact .opened _ trying
  split
  · exact .failed trying
  rename_i left
  split
  · exact .attempted (.inr ⟨trying, left⟩)
  · exact .delayed _ trying left

theorem seqEffect_waitEnds (s : State) : SeqEffect s (waitEnds s) := by
  unfold waitEnds
  split
  · exact .rest
  · exact .rest
  · rename_i delayed
    exact .attempted (.inl delayed)
  · rename_i waiting
    exact .answered waiting

theorem seqEffect_seqClock (d : Bool) (s : State) : SeqEffect s (seqClock d s) := by
  unfold seqClock
  split
  · exact .rest
  · rename_i trying
    exact seqEffect_openSample d trying
  · rename_i delayed
    split
    · exact .attempted (.inl delayed)
    · exact .counted
  · rename_i waiting
    split
    · exact .answered waiting
    · exact .counted

/-! ## A step -/

/-- Only the port's registers, the log of results and the inputs are written. -/
def PortOnly (s t : State) : Prop :=
  ∃ (w : HostWord) (r : ResultRegs) (l : List OpRecord) (e : Environment),
    t = { s with sqr := { s.sqr with pendOp := w }, res := r, hist := { s.hist with opLog := l }, env := e }

theorem PortOnly.refl (s : State) : PortOnly s s := ⟨s.sqr.pendOp, s.res, s.hist.opLog, s.env, rfl⟩

theorem PortOnly.trans {s t u : State} (h : PortOnly s t) (h' : PortOnly t u) : PortOnly s u := by
  obtain ⟨_, _, _, _, rfl⟩ := h
  obtain ⟨w, r, l, e, rfl⟩ := h'
  exact ⟨w, r, l, e, rfl⟩

theorem portOnly_afterInput (s : State) : PortOnly s s.afterInput := by
  unfold State.afterInput
  split
  · exact ⟨s.sqr.pendOp, s.res, s.hist.opLog, _, rfl⟩
  · exact ⟨s.sqr.pendOp, s.res, s.hist.opLog, _, rfl⟩

theorem portOnly_accept (w : HostWord) (s : State) : PortOnly s (s.accept w) := ⟨w, _, s.hist.opLog, s.env, rfl⟩

theorem portOnly_clearValid (s : State) : PortOnly s s.clearValid := ⟨s.sqr.pendOp, _, s.hist.opLog, s.env, rfl⟩

theorem portOnly_logResult (b s : State) : PortOnly s (b.logResult s) := by
  unfold State.logResult
  split
  · exact ⟨s.sqr.pendOp, s.res, _, s.env, rfl⟩
  · exact .refl s

/-- What an input other than a reset does at the heart of a step: the line engine runs, and only while the link is OPEN; the
sequencer runs; a word is not taken, or its instruction runs; a feedback frame that is no row is judged as a window. -/
inductive Acts (n : Input) (s : State) : State → Prop where
  | line {t : State} (writes : LineStep s t) (gated : s.lnk.link ≠ .opened → t = s) : Acts n s t
  | clock (d : Bool) (input : n = .seqClk d) : Acts n s (seqClock d s)
  | wait (input : n = .waitEnd) : Acts n s (waitEnds s)
  | notTaken : Acts n s s
  | run {t : State} (c : CodeWord) (i : Instr) (input : n = .present c) (idle : s.sqr.seq = .idle)
      (row : decode c = .ok i) (ran : exec i s = .next t) : Acts n s t
  | window (w : FrameWord) (e : DecodeError) (idle : s.sqr.seq = .idle)
      (noRow : decode (.relayFrame .fromRelay w) = .error e) : Acts n s (feedbackFrameOp (Frame.ofWord w) s)

/-- What the fetch leaves for `Acts`, up to the port's registers. -/
def Fetched.actsFrom (n : Input) (s : State) : Fetched → Prop
  | .run i u _ => PortOnly s u ∧ ∀ v, exec i u = .next v → Acts n u v
  | .done t => ∃ u v, PortOnly s u ∧ Acts n u v ∧ PortOnly v t
  | .notAFrame => True

theorem present_actsFrom (c : CodeWord) (s : State) : (present c s).actsFrom (.present c) s := by
  by_cases idle : s.sqr.seq = .idle
  case neg =>
    rw [present_notReady c idle]
    exact ⟨s, s, .refl s, .notTaken, .refl s⟩
  cases c with
  | hostCmd w =>
    rw [present_hostCmd w idle]
    exact ⟨portOnly_accept w s, fun v ran => .run _ _ rfl idle rfl ran⟩
  | relayFrame d w =>
    cases row : decode (.relayFrame d w) with
    | ok i =>
      rw [present_relayFrame idle row]
      exact ⟨portOnly_clearValid s, fun v ran => .run _ _ rfl idle row ran⟩
    | error e =>
      cases d with
      | toRelay =>
        rw [present_notCommandFrame idle row]
        trivial
      | fromRelay =>
        rw [present_window idle row]
        exact ⟨s.clearValid, _, portOnly_clearValid s, .window w e idle row, .refl _⟩

theorem react_actsFrom (n : Input) (s : State) (h : n ≠ .reset) : (react n s).actsFrom n s := by
  have line {t : State} (writes : LineStep s t) (gated : s.lnk.link ≠ .opened → t = s) : (Fetched.done t).actsFrom n s :=
    ⟨s, t, .refl s, .line writes gated, .refl t⟩
  cases n with
  | present c => exact present_actsFrom c s
  | seqClk d => exact ⟨s, _, .refl s, .clock d rfl, portOnly_logResult s _⟩
  | waitEnd => exact ⟨s, _, .refl s, .wait rfl, portOnly_logResult s _⟩
  | txClk => exact line (lineStep_txClock s) txClock_of_not_open
  | rxClk x => exact line (lineStep_rxClock x s) fun shut => rxClock_of_not_open shut x
  | txStart => exact line (lineStep_txStartStep s) txStartStep_of_not_open
  | txDone => exact line (lineStep_txDoneStep s) txDoneStep_of_not_open
  | deliver b good => exact line (lineStep_deliverByte b good s) fun shut => deliverByte_of_not_open shut b good
  | reset => exact absurd rfl h

/-- Every step but a reset is one of `Acts`, with only the port's registers, the log and the inputs written around it. -/
theorem step_acts {s t : State} (hr : s.nextInput ≠ .reset) (h : step s = .next t) :
    ∃ u v, PortOnly s u ∧ Acts s.nextInput u v ∧ PortOnly v t := by
  have acts : (fetch s).actsFrom s.nextInput s.afterInput := react_actsFrom _ _ hr
  have taken := portOnly_afterInput s
  cases hf : fetch s with
  | run i u hostOp =>
    rw [hf] at acts
    obtain ⟨port, ran⟩ := acts
    obtain ⟨v, hv, -⟩ := exec_moves i u
    obtain rfl : _ = t := Host.Outcome.next.inj ((step_of_run hf hv).symm.trans h)
    refine ⟨u, v, taken.trans port, ran v hv, ?_⟩
    split
    · exact portOnly_logResult u v
    · exact .refl v
  | done v =>
    rw [hf] at acts
    obtain ⟨u, w, port, act, port'⟩ := acts
    obtain rfl : v = t := Host.Outcome.next.inj ((step_of_done hf).symm.trans h)
    exact ⟨u, w, taken.trans port, act, port'⟩
  | notAFrame => exact absurd ((step_of_notAFrame hf).symm.trans h) nofun

end Sys2Proof.Machine

/-!
Who writes the driver's registers (spec/10_state.md R21, R22).
-/

namespace Sys2Proof.Machine

theorem LineStep.drv {s t : State} (h : LineStep s t) : t.drv = s.drv := by
  obtain ⟨_, _, _, _, _, rfl⟩ := h
  rfl

theorem PortOnly.drv {s t : State} (h : PortOnly s t) : t.drv = s.drv := by
  obtain ⟨_, _, _, _, rfl⟩ := h
  rfl

theorem PortOnly.seq {s t : State} (h : PortOnly s t) : t.sqr.seq = s.sqr.seq := by
  obtain ⟨_, _, _, _, rfl⟩ := h
  rfl

theorem ExecEffect.drv {i : Instr} {s t : State} (h : ExecEffect i s t) (hi : mayWriteDriver i = false) : t.drv = s.drv := by
  cases h with
  | data _ driver => exact driver hi
  | opening => rfl
  | fatal => rfl

theorem SeqEffect.drv {s t : State} (h : SeqEffect s t) (hs : s.sqr.seq ≠ .sendWait) : t.drv = s.drv := by
  cases h with
  | answered waiting => exact absurd waiting hs
  | rest | counted | opened | failed | delayed | attempted => rfl

/-- A feedback frame that is no row either has a wrong marker or checksum, or its third byte is no state
(30_encoding.md R93, R109). -/
theorem not_state_of_decodeFeedbackFrame_error {f : Frame} {e : DecodeError} (h : decodeFeedbackFrame f = .error e)
    (valid : f.valid = true) : 1 < f.f2.toNat := by
  have marked : f.f0 = marker := by
    simp only [Frame.valid, Bool.and_eq_true, beq_iff_eq] at valid
    exact valid.1
  by_contra hle
  have state : f.f2.toNat = 0 ∨ f.f2.toNat = 1 := by omega
  rcases state with h0 | h1
  · simp [decodeFeedbackFrame, feedbackFrameRow, requireChecksum, marked, valid, h0] at h
  · simp [decodeFeedbackFrame, feedbackFrameRow, requireChecksum, marked, valid, h1] at h

/-- RECV's checks write no register for a window that is no feedback frame: they end before the prediction is looked at
(43_protocol_driver.md R222 M6 to M8). -/
theorem evalWindow_of_noRow {f : Frame} {e : DecodeError} (h : decodeFeedbackFrame f = .error e) (s : State) :
    (evalWindow f s).1 = s := by
  unfold evalWindow
  split
  · rfl
  rename_i valid
  split
  · rfl
  rw [if_pos (not_state_of_decodeFeedbackFrame_error h (by simpa using valid))]

theorem feedbackFrameOp_drv_of_noRow {f : Frame} {e : DecodeError} (h : decodeFeedbackFrame f = .error e) (s : State) :
    (feedbackFrameOp f s).drv = s.drv := by
  unfold feedbackFrameOp
  split
  · rfl
  · rw [finish_drv, evalWindow_of_noRow h]

theorem Acts.drv {n : Input} {s t : State} (h : Acts n s t)
    (word : ∀ c i, n = .present c → decode c = .ok i → mayWriteDriver i = false)
    (wait : s.sqr.seq = .sendWait → n ≠ .waitEnd ∧ ∀ d : Bool, n ≠ .seqClk d) : t.drv = s.drv := by
  cases h with
  | line writes _ => exact writes.drv
  | clock d input => exact (seqEffect_seqClock d s).drv fun waiting => (wait waiting).2 d input
  | wait input => exact (seqEffect_waitEnds s).drv fun waiting => (wait waiting).1 input
  | notTaken => rfl
  | run c i input idle row ran => exact (ExecEffect.of_exec ran).drv (word c i input row)
  | window w e idle noRow => exact feedbackFrameOp_drv_of_noRow noRow s

/-- Settles O51: by what an instruction, the line engine and the sequencer may do; only an answer wait's end, among the
sequencer's cycles, is the driver's. -/
theorem driverWrittenOnlyByDriver : Obligations.DriverWrittenOnlyByDriver := by
  refine ⟨fun i s t hi h => (ExecEffect.of_exec h).drv hi, fun s b x => ?_, fun s t h hr word wait => ?_⟩
  · exact ⟨(lineStep_txClock s).drv, (lineStep_rxClock x s).drv, (lineStep_txStartStep s).drv, (lineStep_txDoneStep s).drv,
      (lineStep_deliverByte b x s).drv⟩
  · obtain ⟨u, v, before, act, after⟩ := step_acts hr h
    have kept : v.drv = u.drv := act.drv word (by rwa [before.seq])
    exact (after.drv.trans kept).trans before.drv

end Sys2Proof.Machine

/-!
How the link changes, and how many attempts an OPEN makes (spec/10_state.md R35, R41; spec/40_transport_ops.md R130).
-/

namespace Sys2Proof.Machine

/-- The sequencer and the link agree: as equivalences (10_state.md R24, R41). -/
theorem sequencerAgrees_iff (s : State) :
    s.sequencerAgrees ↔
      (s.lnk.link = .opening ↔ s.sqr.seq = .openTry ∨ s.sqr.seq = .openDelay) ∧
        (s.sqr.seq = .sendWait → s.lnk.link = .opened) := by
  unfold State.sequencerAgrees
  split
  · rename_i q
    simp [q]
  · rename_i q
    simp [q]
  · rename_i q
    simp [q]
  · rename_i q
    simp only [q, reduceCtorEq, or_self, iff_false, forall_const]
    exact ⟨fun opened => ⟨by simp [opened], opened⟩, And.right⟩

/-- A step from `s` that leads to `t` keeps what `STATUS` and `attempts` say of the link and changes the link as listed. -/
structure LinkLawful (s t : State) : Prop where
  cause : t.causeAgrees
  attempts : t.attemptsBounded
  listed : linkMayBecome s.lnk.link t.lnk.link = true

theorem linkMayBecome_self (l : Link) : linkMayBecome l l = true := by cases l <;> rfl

theorem linkMayBecome_fatal (l : Link) : linkMayBecome l .fatal = true := by cases l <;> rfl

theorem linkLawful_enterFatal {c : FCause} (named : c ≠ .none) (s : State) : LinkLawful s (s.enterFatal c) where
  cause := ⟨fun h => absurd h named, fun h => absurd rfl h⟩
  attempts := nofun
  listed := linkMayBecome_fatal _

/-- Outside OPENING the count of attempts says nothing, so a data operation is lawful. -/
theorem DataOp.linkLawful {s t : State} (op : DataOp s t) (cause : s.causeAgrees) (notOpening : s.lnk.link ≠ .opening) :
    LinkLawful s t where
  cause := by rwa [State.causeAgrees, op.lnk]
  attempts := fun opening => absurd (op.lnk ▸ opening) notOpening
  listed := by rw [op.lnk]; exact linkMayBecome_self _

theorem ExecEffect.linkLawful {i : Instr} {s t : State} (h : ExecEffect i s t) (cause : s.causeAgrees)
    (notOpening : s.lnk.link ≠ .opening) : LinkLawful s t := by
  cases h with
  | data op _ => exact op.linkLawful cause notOpening
  | opening closed allowed =>
    have notFatal : s.lnk.link ≠ .fatal := by simp [closed]
    refine ⟨⟨fun _ => nofun, fun _ => cause.2 notFatal⟩, fun _ => ⟨le_rfl, ?_, nofun⟩, by rw [closed]; rfl⟩
    exact Nat.one_le_iff_ne_zero.2 fun h => allowed (BitVec.eq_of_toNat_eq h)
  | fatal named => exact linkLawful_enterFatal named s

section Sequencer

variable {s : State} (agrees : s.sequencerAgrees) (cause : s.causeAgrees) (attempts : s.attemptsBounded)
include agrees attempts

/-- Before another attempt the count is below `MAX_ATTEMPTS`: in a delay by the invariant, after a failed attempt by the test
(40_transport_ops.md R130 L8). -/
theorem attempts_lt_max
    (left : s.sqr.seq = .openDelay ∨ s.sqr.seq = .openTry ∧ s.sqr.attempts ≠ s.csr.maxAttempts) :
    s.lnk.link = .opening ∧ 1 ≤ s.sqr.attempts.toNat ∧ s.sqr.attempts.toNat < s.csr.maxAttempts.toNat := by
  rw [sequencerAgrees_iff] at agrees
  rcases left with delayed | ⟨trying, ne⟩
  · have opening := agrees.1.2 (.inr delayed)
    obtain ⟨one, -, lt⟩ := attempts opening
    exact ⟨opening, one, lt delayed⟩
  · have opening := agrees.1.2 (.inl trying)
    obtain ⟨one, le, -⟩ := attempts opening
    exact ⟨opening, one, lt_of_le_of_ne le fun h => ne (BitVec.eq_of_toNat_eq h)⟩

include cause

theorem SeqEffect.linkLawful {t : State} (h : SeqEffect s t) : LinkLawful s t := by
  cases h with
  | rest => exact ⟨cause, attempts, linkMayBecome_self _⟩
  | counted => exact ⟨cause, attempts, linkMayBecome_self _⟩
  | opened r trying =>
    have opening : s.lnk.link = .opening := ((sequencerAgrees_iff s).1 agrees).1.2 (.inl trying)
    have notFatal : s.lnk.link ≠ .fatal := by simp [opening]
    exact ⟨⟨fun _ => nofun, fun _ => cause.2 notFatal⟩, nofun, by rw [opening]; rfl⟩
  | failed => exact linkLawful_enterFatal (by decide) s
  | delayed n trying ne =>
    obtain ⟨-, one, lt⟩ := attempts_lt_max agrees attempts (.inr ⟨trying, ne⟩)
    exact ⟨cause, fun _ => ⟨one, lt.le, fun _ => lt⟩, linkMayBecome_self _⟩
  | attempted left =>
    obtain ⟨-, -, lt⟩ := attempts_lt_max agrees attempts left
    have max := s.csr.maxAttempts.isLt
    have next : (s.sqr.attempts + 1#8).toNat = s.sqr.attempts.toNat + 1 := by
      rw [BitVec.toNat_add_of_lt (by simp; omega)]
      rfl
    refine ⟨cause, fun _ => ⟨?_, ?_, nofun⟩, linkMayBecome_self _⟩
    · simp [next]
    · simpa [next] using lt
  | answered waiting =>
    have opened : s.lnk.link = .opened := ((sequencerAgrees_iff s).1 agrees).2 waiting
    exact (dataOp_answerWaitEnds s).linkLawful cause (by simp [opened])

theorem Acts.linkLawful {n : Input} {t : State} (h : Acts n s t) : LinkLawful s t := by
  have notOpening (idle : s.sqr.seq = .idle) : s.lnk.link ≠ .opening := by
    simp [((sequencerAgrees_iff s).1 agrees).1, idle]
  cases h with
  | line writes _ =>
    obtain ⟨_, _, _, _, _, rfl⟩ := writes
    exact ⟨cause, attempts, linkMayBecome_self _⟩
  | clock d _ => exact (seqEffect_seqClock d s).linkLawful agrees cause attempts
  | wait _ => exact (seqEffect_waitEnds s).linkLawful agrees cause attempts
  | notTaken => exact ⟨cause, attempts, linkMayBecome_self _⟩
  | run c i _ idle _ ran => exact (ExecEffect.of_exec ran).linkLawful cause (notOpening idle)
  | window w e idle _ => exact (dataOp_feedbackFrameOp _ s).linkLawful cause (notOpening idle)

end Sequencer

theorem PortOnly.keeps_link {s t : State} (h : PortOnly s t) (agrees : s.sequencerAgrees) (cause : s.causeAgrees)
    (attempts : s.attemptsBounded) : t.sequencerAgrees ∧ t.causeAgrees ∧ t.attemptsBounded := by
  obtain ⟨_, _, _, _, rfl⟩ := h
  exact ⟨agrees, cause, attempts⟩

theorem LinkLawful.portOnly {s u v t : State} (before : PortOnly s u) (h : LinkLawful u v) (after : PortOnly v t) :
    LinkLawful s t := by
  obtain ⟨_, _, _, _, rfl⟩ := before
  obtain ⟨_, _, _, _, rfl⟩ := after
  exact ⟨h.cause, h.attempts, h.listed⟩

/-- Settles O49: a step's one act keeps the count and the cause and moves the link along the table; reset closes it. -/
theorem linkChangesOnlyAsListed : Obligations.LinkChangesOnlyAsListed := by
  intro s t agrees cause attempts h
  by_cases hr : s.nextInput = .reset
  · rcases step_moves h with ⟨-, rfl⟩ | ⟨notReset, -⟩
    · exact ⟨⟨fun _ => nofun, fun _ => rfl⟩, nofun, fun notReset => absurd hr notReset, fun _ => rfl⟩
    · exact absurd hr notReset
  · obtain ⟨u, v, before, act, after⟩ := step_acts hr h
    obtain ⟨agrees', cause', attempts'⟩ := before.keeps_link agrees cause attempts
    have whole := (act.linkLawful agrees' cause' attempts').portOnly before after
    exact ⟨whole.cause, whole.attempts, fun _ => whole.listed, fun reset => absurd reset hr⟩

end Sys2Proof.Machine

/-!
The line parameters: legal, frozen once opening starts, and wide enough for what has been received
(spec/10_state.md R30 to R33; spec/70_reset_and_hazards.md R320).
-/

namespace Sys2Proof.Machine

/-! ## Legal and frozen -/

theorem csrWrite_legal {c : Csrs} {a : BitVec 4} {v : Byte} (legal : csrValueLegal a v = true)
    (baud : baudSelLegal c.baudSel = true) (fmt : lineFmtLegal c.lineFmt = true) :
    baudSelLegal (c.write a v).baudSel = true ∧ lineFmtLegal (c.write a v).lineFmt = true := by
  unfold csrValueLegal at legal
  unfold Csrs.write
  split
  · rename_i h
    rw [h] at legal
    exact ⟨legal, fmt⟩
  · rename_i h
    rw [h] at legal
    exact ⟨baud, legal⟩
  all_goals exact ⟨baud, fmt⟩

/-- The line parameters: what CFGWR may write only while the link is CLOSED (10_state.md R30). -/
def Csrs.line (c : Csrs) : Byte × Byte × Byte := (c.baudSel, c.lineFmt, c.maxAttempts)

theorem csrWrite_line {a : BitVec 4} (h : csrFrozenUnlessClosed a = false) (c : Csrs) (v : Byte) :
    (c.write a v).line = c.line := by
  have h2 : ¬ a.toNat ≤ 2 := by simpa [csrFrozenUnlessClosed] using h
  unfold Csrs.write
  split
  · omega
  · omega
  · omega
  all_goals rfl

@[simp] theorem txStartStep_csr (s : State) : (txStartStep s).csr = s.csr := by
  obtain ⟨_, _, _, _, _, e⟩ := lineStep_txStartStep s
  rw [e]

@[simp] theorem txDoneStep_csr (s : State) : (txDoneStep s).csr = s.csr := by
  obtain ⟨_, _, _, _, _, e⟩ := lineStep_txDoneStep s
  rw [e]

@[simp] theorem stageByte_csr (b : Byte) (s : State) : (stageByte b s).csr = s.csr := by
  obtain ⟨_, _, _, _, _, e⟩ := lineStep_stageByte b s
  rw [e]

/-- Of the moves only CFGWR's writes a control register. -/
theorem move_csr {s t : State} (m : Move s t) :
    t.csr = s.csr ∨
      ∃ a v, t = s.writeCsr a v ∧ (csrFrozenUnlessClosed a = true → s.lnk.link = .closed) ∧ csrValueLegal a v = true := by
  cases m with
  | csr a v frozen legal => exact .inr ⟨a, v, rfl, frozen, legal⟩
  | txStart => exact .inl (txStartStep_csr s)
  | txDone => exact .inl (txDoneStep_csr s)
  | stage b _ => exact .inl (stageByte_csr b s)
  | control | link | log | env | relay | lastChannel | push | flush | poll | take | shift | drop | record | rxShift | sync =>
    exact .inl rfl

theorem move_csrLegal (s t : State) (m : Move s t) (h : s.csrLegal) : t.csrLegal := by
  rcases move_csr m with e | ⟨a, v, rfl, -, legal⟩
  · rwa [State.csrLegal, e]
  · exact csrWrite_legal legal h.1 h.2

theorem move_not_closed {s t : State} (m : Move s t) (h : s.lnk.link ≠ .closed) : t.lnk.link ≠ .closed := by
  cases m with
  | link l c left => exact left
  | txStart => simpa using h
  | txDone => simpa using h
  | stage b _ => simpa using h
  | control | log | env | csr | relay | lastChannel | push | flush | poll | take | shift | drop | record | rxShift | sync =>
    exact h

theorem move_line {s t : State} (m : Move s t) (h : s.lnk.link ≠ .closed) : t.csr.line = s.csr.line := by
  rcases move_csr m with e | ⟨a, v, rfl, frozen, -⟩
  · rw [e]
  · exact csrWrite_line (Bool.eq_false_iff.2 fun ha => h (frozen ha)) _ _

theorem moves_line {s t : State} (m : Moves s t) (h : s.lnk.link ≠ .closed) : t.csr.line = s.csr.line := by
  have both : t.lnk.link ≠ .closed ∧ t.csr.line = s.csr.line :=
    m.keeps (P := fun u => u.lnk.link ≠ .closed ∧ u.csr.line = s.csr.line)
      (fun _ _ m ⟨left, same⟩ => ⟨move_not_closed m left, (move_line m left).trans same⟩) ⟨h, rfl⟩
  exact both.2

/-! ## What is received fits the format -/

theorem line_lineFmt {c c' : Csrs} (h : c'.line = c.line) : c'.lineFmt = c.lineFmt := congrArg (fun p => p.2.1) h

theorem rxFits_of_received {s t : State} (fits : s.rxFits) (fmt : t.csr.lineFmt = s.csr.lineFmt)
    (received : t.rx.rxq ++ t.rx.rxStage ⊆ s.rx.rxq ++ s.rx.rxStage) : t.rxFits := by
  intro b hb
  rw [fmt]
  exact fits b (received hb)

@[simp] theorem txStartStep_rx (s : State) : (txStartStep s).rx = s.rx := by
  unfold txStartStep
  split <;> rfl

@[simp] theorem txDoneStep_rx (s : State) : (txDoneStep s).rx = s.rx := by
  unfold txDoneStep
  split <;> rfl

theorem stageByte_received (b : Byte) (s : State) :
    (stageByte b s).rx.rxq ++ (stageByte b s).rx.rxStage ⊆ b :: (s.rx.rxq ++ s.rx.rxStage) := by
  intro x hx
  unfold stageByte at hx
  split at hx
  · simp only [List.mem_append, List.mem_cons, List.not_mem_nil, or_false] at hx ⊢
    rcases hx with queued | staged | rfl
    · exact .inr (.inl queued)
    · exact .inr (.inr (List.mem_of_mem_drop staged))
    · exact .inl rfl
  · simp only [List.mem_append, List.mem_cons, List.not_mem_nil, or_false] at hx ⊢
    rcases hx with queued | staged | rfl
    · exact .inr (.inl queued)
    · exact .inr (.inr staged)
    · exact .inl rfl

theorem rxFits_stageByte {b : Byte} {s : State} (fits : s.rxFits) (hb : b.toNat < 2 ^ dataBits s.csr.lineFmt) :
    (stageByte b s).rxFits := by
  intro x hx
  rw [stageByte_csr]
  rcases List.mem_cons.1 (stageByte_received b s hx) with rfl | old
  · exact hb
  · exact fits x old

/-- Once the link is not CLOSED the format is frozen, and a byte staged fits it. -/
theorem move_rxFits {s t : State} (m : Move s t) (h : s.lnk.link ≠ .closed) (fits : s.rxFits) : t.rxFits := by
  have fmt := line_lineFmt (move_line m h)
  cases m with
  | stage b hb => exact rxFits_stageByte fits hb
  | poll => exact rxFits_of_received fits fmt (dataOp_pollRx s).received
  | take n => exact rxFits_of_received fits fmt (dataOp_takeRx n s).received
  | txStart => exact rxFits_of_received fits fmt (by rw [txStartStep_rx]; exact List.Subset.refl _)
  | txDone => exact rxFits_of_received fits fmt (by rw [txDoneStep_rx]; exact List.Subset.refl _)
  | control | link | log | env | csr | relay | lastChannel | push | flush | shift | drop | record | rxShift | sync =>
    exact rxFits_of_received fits fmt (List.Subset.refl _)

theorem moves_rxFits {s t : State} (m : Moves s t) (h : s.lnk.link ≠ .closed) (fits : s.rxFits) : t.rxFits := by
  have both : t.lnk.link ≠ .closed ∧ t.rxFits :=
    m.keeps (P := fun u => u.lnk.link ≠ .closed ∧ u.rxFits)
      (fun _ _ m ⟨left, fits⟩ => ⟨move_not_closed m left, move_rxFits m left fits⟩) ⟨h, fits⟩
  exact both.2

/-! ## While the link is not OPEN nothing is received -/

theorem ExecEffect.received {i : Instr} {s t : State} (h : ExecEffect i s t) :
    t.rx.rxq ++ t.rx.rxStage ⊆ s.rx.rxq ++ s.rx.rxStage := by
  cases h with
  | data op _ => exact op.received
  | opening => exact List.Subset.refl _
  | fatal => exact List.Subset.refl _

theorem SeqEffect.received {s t : State} (h : SeqEffect s t) : t.rx.rxq ++ t.rx.rxStage ⊆ s.rx.rxq ++ s.rx.rxStage := by
  cases h with
  | answered => exact (dataOp_answerWaitEnds s).received
  | rest | counted | opened | failed | delayed | attempted => exact List.Subset.refl _

theorem Acts.received_of_not_open {n : Input} {s t : State} (h : Acts n s t) (shut : s.lnk.link ≠ .opened) :
    t.rx.rxq ++ t.rx.rxStage ⊆ s.rx.rxq ++ s.rx.rxStage := by
  cases h with
  | line _ gated =>
    rw [gated shut]
    exact List.Subset.refl _
  | clock d _ => exact (seqEffect_seqClock d s).received
  | wait _ => exact (seqEffect_waitEnds s).received
  | notTaken => exact List.Subset.refl _
  | run c i _ _ _ ran => exact (ExecEffect.of_exec ran).received
  | window w e _ _ => exact (dataOp_feedbackFrameOp _ s).received

theorem step_received_of_not_open {s t : State} (hr : s.nextInput ≠ .reset) (h : step s = .next t)
    (shut : s.lnk.link ≠ .opened) : t.rx.rxq ++ t.rx.rxStage ⊆ s.rx.rxq ++ s.rx.rxStage := by
  obtain ⟨u, v, ⟨_, _, _, _, rfl⟩, act, ⟨_, _, _, _, rfl⟩⟩ := step_acts hr h
  exact act.received_of_not_open shut

/-- While CLOSED, where the format may change, the receive queues are empty and stay so; later the format is frozen. -/
theorem step_keeps_rxFits {s t : State} (quiet : s.quietUntilOpen) (fits : s.rxFits) (h : step s = .next t) : t.rxFits := by
  rcases step_moves h with ⟨-, rfl⟩ | ⟨notReset, moves⟩
  · exact rxFits_of_nil rfl
  by_cases closed : s.lnk.link = .closed
  · obtain ⟨-, -, -, queue, stage, -⟩ := quiet (.inl closed)
    have received := step_received_of_not_open notReset h (by simp [closed])
    rw [queue, stage] at received
    exact rxFits_of_nil (List.subset_nil.1 received)
  · exact moves_rxFits moves closed fits

/-- Settles O47: CFGWR tests the value and, for the line parameters, that the link is CLOSED; nothing else writes them. -/
theorem lineParametersLegalAndFrozen : Obligations.LineParametersLegalAndFrozen := by
  intro s t h
  refine ⟨step_keeps move_csrLegal (fun s _ => resetWith_csrLegal s.afterInput.cfg) h, fun hne hr => ?_, fun quiet fits =>
    step_keeps_rxFits quiet fits h⟩
  have line := moves_line (moves_of_step hr h) hne
  simpa only [Csrs.line, Prod.mk.injEq] using line

end Sys2Proof.Machine

/-!
How an operation ends, said once: what an instruction leaves in the sequencer's registers and how many bytes in `rxq`
(spec/10_state.md R24 to R28; spec/40_transport_ops.md R133; spec/43_protocol_driver.md R220, R222, R228).
-/

namespace Sys2Proof.Machine

/-! ## Work -/

/-- `rxq` holds less than a whole frame (20_memory.md R79). -/
abbrev State.rxShort (s : State) : Prop := s.rx.rxq.length ≤ 3

/-- What an operation does up to its result or its wait: the parameters, the sequencer and the link registers are as before, and a
short `rxq` stays short. -/
structure Work (s t : State) : Prop where
  cfg : t.cfg = s.cfg
  sqr : t.sqr = s.sqr
  lnk : t.lnk = s.lnk
  short : s.rxShort → t.rxShort

theorem Work.refl (s : State) : Work s s := ⟨rfl, rfl, rfl, id⟩

theorem Work.trans {s t u : State} (h : Work s t) (h' : Work t u) : Work s u :=
  ⟨h'.cfg.trans h.cfg, h'.sqr.trans h.sqr, h'.lnk.trans h.lnk, h'.short ∘ h.short⟩

theorem work_transmitFrame (f : Frame) (s : State) : Work s (transmitFrame f s).1 := by
  obtain ⟨q, h, e, -⟩ := transmitFrame_frame f s
  rw [e]
  exact ⟨rfl, rfl, rfl, id⟩

theorem work_enqueue (b : Byte) (s : State) : Work s (s.enqueue b).1 := by
  obtain ⟨q, h, e⟩ := enqueue_frame b s
  rw [e]
  exact ⟨rfl, rfl, rfl, id⟩

theorem work_sendOut (cmd : BitVec 4) (ch : Byte) (s : State) : Work s (sendOut cmd ch s).1 :=
  have predict : Work s (predicted cmd ch s) := ⟨rfl, rfl, rfl, id⟩
  predict.trans (work_transmitFrame _ _)

theorem work_takeRx (n : Nat) (s : State) : Work s (s.takeRx n) :=
  ⟨rfl, rfl, rfl, ((List.drop_sublist n s.rx.rxq).length_le).trans⟩

theorem work_evalWindow (f : Frame) (s : State) : Work s (evalWindow f s).1 := by
  rw [(evalWindow_frame f s).1]
  exact ⟨rfl, rfl, rfl, id⟩

/-- RECV polls, but it leaves what it polled only where that is less than a frame (43_protocol_driver.md R222 M3 to M5). -/
theorem recvFrom_rxShort (s : State) : (recvFrom s).1.rxShort := by
  by_cases few : s.polled.rx.rxq.length < 4
  · rw [recvFrom_short s few]
    exact Nat.le_of_lt_succ few
  · rw [recvFrom_window s few]
    exact (work_evalWindow _ _).short (Nat.zero_le 3)

theorem work_recvFrom (s : State) : Work s (recvFrom s).1 := by
  have short := recvFrom_rxShort s
  obtain ⟨d, q, h, e, -, -⟩ := recvFrom_frame s
  rw [e] at short ⊢
  exact ⟨rfl, rfl, rfl, fun _ => short⟩

/-! ## SEND -/

/-- A SEND from line L2 on comes to its result, or to its wait of at least one cycle. -/
inductive SendEnds (s : State) : State × Option OpResult → Prop where
  | result {u : State} (r : OpResult) (work : Work s u) : SendEnds s (u, some r)
  | waits {u : State} (work : Work s u) (positive : s.answerWaitCycles ≠ 0) :
      SendEnds s (u.startWait .sendWait s.answerWaitCycles, none)

theorem sendFrom_ends (cmd : BitVec 4) (ch : Byte) (s : State) : SendEnds s (sendFrom cmd ch s) := by
  have out := work_sendOut cmd ch s
  unfold sendFrom
  split
  · exact .result _ (.refl s)
  split
  · exact .result _ (.refl s)
  dsimp only
  generalize sendOut cmd ch s = p at out ⊢
  split
  · exact .result _ out
  split
  · exact .result _ out
  split
  · exact .result _ out
  split
  · exact .result _ (out.trans (work_recvFrom _))
  · rename_i positive
    exact .waits out positive

/-! ## Instructions -/

/-- How instruction `i` ends, or up to where it runs: with a result, after some work or, for POLL alone, after the poll; in
the wait of a SEND; with INIT's loop; with an OPEN begun; in the fatal state. -/
inductive ExecEnds (i : Instr) (s : State) : State → Prop where
  | finished {u : State} (r : OpResult) (work : Work s u) : ExecEnds i s (u.finish r)
  | polled (r : OpResult) (isPoll : i = .poll) : ExecEnds i s (s.pollRx.finish r)
  | waits {u : State} (opened : s.lnk.link = .opened) (work : Work s u) (positive : s.answerWaitCycles ≠ 0) :
      ExecEnds i s (u.startWait .sendWait s.answerWaitCycles)
  | init (opened : s.lnk.link = .opened) : ExecEnds i s (initLoop s.cfg.channels s.initBegin)
  | opening :
      ExecEnds i s
        { s with lnk := { s.lnk with link := .opening }, sqr := { s.sqr with attempts := 1#8, seq := .openTry } }
  | fatal (cause : FCause) : ExecEnds i s (s.enterFatal cause)

theorem ExecEnds.raised {i : Instr} {s : State} (e : ErrCode) : ExecEnds i s (s.raise e) := .finished _ (.refl s)

theorem opened_of_not_shut {s : State} (h : ¬ (!s.linkOpen) = true) : s.lnk.link = .opened := by simpa using h

theorem execEnds_sendOp (i : Instr) (cmd : BitVec 4) (ch : Byte) (s : State) : ExecEnds i s (sendOp cmd ch s) := by
  have ends := sendFrom_ends cmd ch s
  unfold sendOp
  split
  · exact .raised _
  rename_i opened
  generalize sendFrom cmd ch s = p at ends ⊢
  cases ends with
  | result r work => exact .finished r work
  | waits work positive => exact .waits (opened_of_not_shut opened) work positive

theorem execEnds_commandFrameOp (i : Instr) (f : Frame) (s : State) : ExecEnds i s (commandFrameOp f s) := by
  unfold commandFrameOp
  split
  · exact .raised _
  split
  · exact .finished _ (work_transmitFrame f s)
  · exact .finished _ (work_transmitFrame f s)

theorem execEnds_feedbackFrameOp (i : Instr) (f : Frame) (s : State) : ExecEnds i s (feedbackFrameOp f s) := by
  unfold feedbackFrameOp
  split
  · exact .raised _
  · exact .finished _ (work_evalWindow f s)

theorem exec_ends (i : Instr) (s : State) : ∃ t, exec i s = .next t ∧ ExecEnds i s t := by
  cases i with
  | cfgwr a v =>
    have write : Work s (s.writeCsr a v) := ⟨rfl, rfl, rfl, id⟩
    simp only [exec, execCfgwr]
    repeat' split
    · exact ⟨_, rfl, .raised _⟩
    · exact ⟨_, rfl, .raised _⟩
    · exact ⟨_, rfl, .raised _⟩
    · exact ⟨_, rfl, .raised _⟩
    · exact ⟨_, rfl, .finished _ write⟩
  | openLink =>
    simp only [exec, execOpenLink]
    repeat' split
    · exact ⟨_, rfl, .raised _⟩
    · exact ⟨_, rfl, .fatal _⟩
    · exact ⟨_, rfl, .opening⟩
  | enq b =>
    simp only [exec, execEnq]
    split
    · exact ⟨_, rfl, .raised _⟩
    · exact ⟨_, rfl, .finished _ (work_enqueue b s)⟩
  | flush =>
    have move : Work s s.flushTx := ⟨rfl, rfl, rfl, id⟩
    simp only [exec, execFlush]
    split
    · exact ⟨_, rfl, .raised _⟩
    · exact ⟨_, rfl, .finished _ move⟩
  | poll =>
    simp only [exec, execPoll]
    split
    · exact ⟨_, rfl, .raised _⟩
    · exact ⟨_, rfl, .polled _ rfl⟩
  | deq =>
    simp only [exec, execDeq]
    repeat' split
    · exact ⟨_, rfl, .raised _⟩
    · exact ⟨_, rfl, .raised _⟩
    · exact ⟨_, rfl, .finished _ (work_takeRx 1 s)⟩
  | init =>
    simp only [exec, execInit]
    split
    · exact ⟨_, rfl, .raised _⟩
    · rename_i opened
      exact ⟨_, rfl, .init (opened_of_not_shut opened)⟩
  | recv =>
    simp only [exec, execRecv]
    split
    · exact ⟨_, rfl, .raised _⟩
    · exact ⟨_, rfl, .finished _ (work_recvFrom s)⟩
  | cmd2bool cmd =>
    simp only [exec, execCmd2bool]
    repeat' split
    · exact ⟨_, rfl, .raised _⟩
    · exact ⟨_, rfl, .finished _ (.refl s)⟩
    · exact ⟨_, rfl, .finished _ (.refl s)⟩
    · exact ⟨_, rfl, .fatal _⟩
  | reserved0 | pendw | pendr | compose | rdstate | rdcsr =>
    simp only [exec, execReserved0, execPendw, execPendr, execCompose, execRdstate, execRdcsr]
    repeat' split
    all_goals exact ⟨_, rfl, .finished _ (.refl s)⟩
  | send | sendOff | sendOn | sendOffCheck | sendOnCheck | sendNegateCheck | sendCheck | sendNone | sendError
  | sendReserved => exact ⟨_, rfl, execEnds_sendOp _ _ _ s⟩
  | frameOff | frameOn | frameOffCheck | frameOnCheck | frameNegateCheck | frameCheck =>
    exact ⟨_, rfl, execEnds_commandFrameOp _ _ s⟩
  | fbOff | fbOn => exact ⟨_, rfl, execEnds_feedbackFrameOp _ _ s⟩

theorem ExecEnds.of_exec {i : Instr} {s t : State} (h : exec i s = .next t) : ExecEnds i s t := by
  obtain ⟨u, hu, ends⟩ := exec_ends i s
  obtain rfl : u = t := Host.Outcome.next.inj (hu.symm.trans h)
  exact ends

end Sys2Proof.Machine

/-!
What every step keeps of the sequencer, of the bounds and of the registers (spec/20_memory.md R77; spec/10_state.md R21, R24, R26,
R27, R41). The bounds hold move by move; the sequencer's agreement holds only from one act of a step to the next.
-/

namespace Sys2Proof.Machine

/-! ## The bounds and the registers, move by move -/

/-- The part of the machine's invariant that every single move keeps. -/
structure Bounded (s : State) : Prop where
  legal : s.cfg.legal
  queues : Memory.wf s
  lastChannel :
    s.drv.lastChannel = 0#8 ∨ (1 ≤ s.drv.lastChannel.toNat ∧ s.drv.lastChannel.toNat ≤ s.cfg.channels)
  registers : s.registersPresent

theorem setRelay_registersPresent {s : State} (ch : Byte) (v : Bool) (h : s.registersPresent) :
    (s.setRelay ch v).registersPresent := by
  simp only [State.registersPresent, State.setRelay]
  split
  · exact h
  · exact List.length_set.trans h

theorem rxsDepth_pos_of_legal {c : Config} (h : c.legal) : 1 ≤ c.rxsDepth := by
  obtain ⟨-, -, -, -, -, -, depth, -⟩ := h
  omega

theorem channels_le_of_legal {c : Config} (h : c.legal) : c.channels ≤ 255 := by
  obtain ⟨-, most, -⟩ := h
  exact most

theorem move_bounded (s t : State) (m : Move s t) (h : Bounded s) : Bounded t := by
  obtain ⟨legal, queues, last, registers⟩ := h
  have same := move_cfg m
  have queues' := (memory_wf_move s t m ⟨queues, rxsDepth_pos_of_legal legal⟩).1
  have keepsDriver (drv : t.drv = s.drv) : Bounded t := by
    refine ⟨by rwa [same], queues', ?_, ?_⟩
    · rwa [drv, same]
    · rwa [State.registersPresent, drv, same]
  cases m with
  | relay ch v => exact ⟨legal, queues', last, setRelay_registersPresent ch v registers⟩
  | lastChannel ch valid => exact ⟨legal, queues', .inr ((validChannel_iff s ch).1 valid), registers⟩
  | txStart => exact keepsDriver (lineStep_txStartStep s).drv
  | txDone => exact keepsDriver (lineStep_txDoneStep s).drv
  | stage b _ => exact keepsDriver (lineStep_stageByte b s).drv
  | control | link | log | env | csr | push | flush | poll | take | shift | drop | record | rxShift | sync =>
    exact keepsDriver rfl

/-! ## The sequencer -/

/-- The part of the machine's invariant about the sequencer: an operation in progress, its wait and INIT's count. -/
structure SequencerInv (s : State) : Prop where
  agrees : s.sequencerAgrees
  init : s.initAgrees
  timer : s.timerAgrees
  errs : s.sqr.initErrs.toNat ≤ s.cfg.channels

theorem inv_iff (s : State) : s.Inv ↔ Bounded s ∧ SequencerInv s := by
  constructor
  · rintro ⟨legal, ⟨queues, last, errs⟩, registers, agrees, init, timer⟩
    exact ⟨⟨legal, queues, last, registers⟩, ⟨agrees, init, timer, errs⟩⟩
  · rintro ⟨⟨legal, queues, last, registers⟩, ⟨agrees, init, timer, errs⟩⟩
    exact ⟨legal, ⟨queues, last, errs⟩, registers, agrees, init, timer⟩

/-- Outside an answer wait no INIT is in progress (10_state.md R27). -/
theorem SequencerInv.inactive {s : State} (h : SequencerInv s) (notWaiting : s.sqr.seq ≠ .sendWait) :
    s.sqr.initActive = false :=
  Bool.eq_false_iff.2 fun active => notWaiting (h.init active).1

theorem initAgrees_of_inactive {s : State} (h : s.sqr.initActive = false) : s.initAgrees := fun active =>
  absurd (h.symm.trans active) nofun

theorem sequencerInv_of_idle {s : State} (idle : s.sqr.seq = .idle) (link : s.lnk.link ≠ .opening)
    (inactive : s.sqr.initActive = false) (timer : s.sqr.timer < 2 ^ timerWidth s.cfg)
    (errs : s.sqr.initErrs.toNat ≤ s.cfg.channels) : SequencerInv s := by
  refine ⟨?_, initAgrees_of_inactive inactive, ⟨timer, ?_⟩, errs⟩
  · simpa [State.sequencerAgrees, idle] using link
  · simp [idle]

/-- An OPEN whose next attempt is due (40_transport_ops.md R130 L6). -/
theorem sequencerInv_of_openTry {s : State} (trying : s.sqr.seq = .openTry) (link : s.lnk.link = .opening)
    (inactive : s.sqr.initActive = false) (timer : s.sqr.timer < 2 ^ timerWidth s.cfg)
    (errs : s.sqr.initErrs.toNat ≤ s.cfg.channels) : SequencerInv s := by
  refine ⟨?_, initAgrees_of_inactive inactive, ⟨timer, ?_⟩, errs⟩
  · simpa [State.sequencerAgrees, trying] using link
  · simp [trying]

/-- A SEND's wait begun: its length fits in `timer` (10_state.md R26). -/
theorem sequencerInv_sendWait {s u : State} (work : Work s u) (opened : s.lnk.link = .opened)
    (positive : s.answerWaitCycles ≠ 0) (init : (u.startWait .sendWait s.answerWaitCycles).initAgrees)
    (errs : s.sqr.initErrs.toNat ≤ s.cfg.channels) : SequencerInv (u.startWait .sendWait s.answerWaitCycles) := by
  refine ⟨?_, init, ⟨?_, fun _ => Nat.one_le_iff_ne_zero.2 positive⟩, ?_⟩
  · simpa [State.sequencerAgrees, work.lnk] using opened
  · simpa [work.cfg] using answerWaitCycles_lt s
  · simpa [work.cfg, work.sqr] using errs

/-! ## INIT's loop -/

theorem toNat_add_one_le (x : Byte) : (x + 1#8).toNat ≤ x.toNat + 1 := Nat.mod_le _ _

theorem toNat_add_one {x : Byte} (h : x.toNat < 255) : (x + 1#8).toNat = x.toNat + 1 :=
  BitVec.toNat_add_of_lt (Nat.succ_lt_succ h)

theorem countErr_initErrs_le (r : OpResult) (s : State) :
    (s.countErr r).sqr.initErrs.toNat ≤ s.sqr.initErrs.toNat + 1 := by
  rw [countErr_sqr]
  dsimp only
  split
  · exact Nat.le_succ _
  · exact toNat_add_one_le _

/-- INIT's loop with `n` channels to come: at most one error has been counted for each channel before
(43_protocol_driver.md R228). -/
structure InitProgress (n : Nat) (s : State) : Prop where
  opened : s.lnk.link = .opened
  channel : s.sqr.initCh.toNat + n = s.cfg.channels
  errs : s.sqr.initErrs.toNat ≤ s.sqr.initCh.toNat
  timer : s.sqr.timer < 2 ^ timerWidth s.cfg

/-- The result of a channel's SEND counted, the loop goes on with the channels after it. -/
theorem InitProgress.next {n : Nat} {s u : State} (h : InitProgress (n + 1) s) (few : s.cfg.channels ≤ 255)
    (work : Work s.initNext u) (r : OpResult) : InitProgress n (u.countErr r) := by
  obtain ⟨opened, channel, errs, timer⟩ := h
  have next := toNat_add_one (x := s.sqr.initCh) (by omega)
  have count := countErr_initErrs_le r u
  refine ⟨?_, ?_, ?_, ?_⟩
  · simpa [work.lnk] using opened
  · simp only [countErr_sqr, countErr_cfg, work.sqr, work.cfg, initNext_sqr, initNext_cfg]
    omega
  · simp only [work.sqr, initNext_sqr] at count
    simp only [countErr_sqr, work.sqr, initNext_sqr] at count ⊢
    omega
  · simpa [work.sqr, work.cfg] using timer

theorem initLoop_sequencerInv (n : Nat) {s : State} (few : s.cfg.channels ≤ 255) (h : InitProgress n s) :
    SequencerInv (initLoop n s) := by
  induction n generalizing s with
  | zero =>
    obtain ⟨opened, channel, errs, timer⟩ := h
    have link : s.initEnd.lnk.link ≠ .opening := by simp [opened]
    exact sequencerInv_of_idle rfl link rfl timer (errs.trans channel.le)
  | succ n ih =>
    have ends := sendFrom_ends (commandCode .check) s.initNext.sqr.initCh s.initNext
    simp only [initLoop]
    generalize sendFrom _ _ _ = p at ends ⊢
    cases ends with
    | result r work => exact ih (by simpa [work.cfg] using few) (h.next few work r)
    | waits work positive =>
      obtain ⟨opened, channel, errs, timer⟩ := h
      have next := toNat_add_one (x := s.sqr.initCh) (by omega)
      have counted : s.sqr.initErrs.toNat ≤ s.cfg.channels := by omega
      refine sequencerInv_sendWait work opened positive (fun _ => ⟨rfl, ?_, ?_⟩) counted
      · simp only [startWait_sqr, work.sqr, initNext_sqr]
        omega
      · simp only [startWait_sqr, startWait_cfg, work.sqr, work.cfg, initNext_sqr, initNext_cfg]
        omega

/-! ## Acts -/

theorem ExecEnds.sequencerInv {i : Instr} {s t : State} (h : ExecEnds i s t) (few : s.cfg.channels ≤ 255)
    (inv : SequencerInv s) (idle : s.sqr.seq = .idle) : SequencerInv t := by
  have inactive := inv.inactive (by simp [idle])
  have link : s.lnk.link ≠ .opening := by simp [((sequencerAgrees_iff s).1 inv.agrees).1, idle]
  obtain ⟨-, -, ⟨timer, -⟩, errs⟩ := inv
  cases h with
  | finished r work =>
    refine sequencerInv_of_idle rfl ?_ ?_ ?_ ?_
    · simpa [work.lnk] using link
    · simpa [work.sqr] using inactive
    · simpa [work.sqr, work.cfg] using timer
    · simpa [work.sqr, work.cfg] using errs
  | polled r => exact sequencerInv_of_idle rfl link inactive timer errs
  | waits opened work positive =>
    exact sequencerInv_sendWait work opened positive (initAgrees_of_inactive (by simpa [work.sqr] using inactive)) errs
  | init opened => exact initLoop_sequencerInv _ few ⟨opened, Nat.zero_add _, le_rfl, timer⟩
  | opening => exact sequencerInv_of_openTry rfl rfl inactive timer errs
  | fatal => exact sequencerInv_of_idle rfl nofun rfl timer errs

section Sequencer

variable {s : State} (inv : SequencerInv s)
include inv

theorem openAttempt_sequencerInv (opening : s.lnk.link = .opening) (notWaiting : s.sqr.seq ≠ .sendWait) :
    SequencerInv s.openAttempt :=
  sequencerInv_of_openTry rfl opening (inv.inactive notWaiting) (Nat.two_pow_pos _) inv.errs

theorem openSample_sequencerInv (d : Bool) (trying : s.sqr.seq = .openTry) : SequencerInv (openSample d s) := by
  have notWaiting : s.sqr.seq ≠ .sendWait := by simp [trying]
  have inactive := inv.inactive notWaiting
  have opening : s.lnk.link = .opening := ((sequencerAgrees_iff s).1 inv.agrees).1.2 (.inl trying)
  have ⟨_, _, ⟨timer, _⟩, errs⟩ := inv
  unfold openSample
  split
  · exact sequencerInv_of_idle rfl nofun inactive timer errs
  split
  · exact sequencerInv_of_idle rfl nofun rfl timer errs
  split
  · exact openAttempt_sequencerInv inv opening notWaiting
  · rename_i positive
    exact ⟨opening, initAgrees_of_inactive inactive,
      ⟨cycOpenRetry_lt s.cfg, fun _ => Nat.one_le_iff_ne_zero.2 positive⟩, errs⟩

theorem answerWaitEnds_sequencerInv (few : s.cfg.channels ≤ 255) (waiting : s.sqr.seq = .sendWait) :
    SequencerInv (answerWaitEnds s) := by
  have opened : s.lnk.link = .opened := ((sequencerAgrees_iff s).1 inv.agrees).2 waiting
  have work := work_recvFrom s.waitOver
  have count := countErr_initErrs_le (recvFrom s.waitOver).2 (recvFrom s.waitOver).1
  cases active : s.sqr.initActive with
  | true =>
    obtain ⟨-, counted, channel⟩ := inv.init active
    rw [answerWaitEnds_init s active]
    refine initLoop_sequencerInv _ (by simpa [work.cfg] using few) ⟨?_, ?_, ?_, ?_⟩
    · simpa [work.lnk] using opened
    · simp only [countErr_sqr, countErr_cfg, work.sqr, work.cfg, waitOver_sqr, waitOver_cfg]
      omega
    · simp only [countErr_sqr, work.sqr, waitOver_sqr] at count ⊢
      omega
    · simp [work.sqr, work.cfg]
  | false =>
    rw [answerWaitEnds_send s active]
    refine sequencerInv_of_idle rfl ?_ ?_ ?_ ?_
    · simp [work.lnk, opened]
    · simpa [work.sqr] using active
    · simp [work.sqr, work.cfg]
    · simpa [work.sqr, work.cfg] using inv.errs

theorem waitEnds_sequencerInv (few : s.cfg.channels ≤ 255) : SequencerInv (waitEnds s) := by
  unfold waitEnds
  split
  · exact inv
  · exact inv
  · rename_i delayed
    have opening : s.lnk.link = .opening := ((sequencerAgrees_iff s).1 inv.agrees).1.2 (.inr delayed)
    exact openAttempt_sequencerInv inv opening (by simp [delayed])
  · rename_i waiting
    exact answerWaitEnds_sequencerInv inv few waiting

theorem tick_sequencerInv (left : 1 < s.sqr.timer) : SequencerInv s.tick := by
  obtain ⟨agrees, init, ⟨timer, -⟩, errs⟩ := inv
  exact ⟨agrees, init, ⟨(Nat.sub_le _ _).trans_lt timer, fun _ => Nat.le_sub_one_of_lt left⟩, errs⟩

/-- A wait's cycle either counts down from more than 1 or is the wait's end. -/
theorem seqClock_sequencerInv (d : Bool) (few : s.cfg.channels ≤ 255) : SequencerInv (seqClock d s) := by
  have wait (waiting : s.waiting) : SequencerInv (seqClock d s) := by
    by_cases left : 1 < s.sqr.timer
    · rw [seqClock_of_one_lt_timer d waiting left]
      exact tick_sequencerInv inv left
    · rw [seqClock_of_timer_le_one d waiting (not_lt.1 left)]
      exact waitEnds_sequencerInv inv few
  cases q : s.sqr.seq with
  | idle => rwa [seqClock_idle d q]
  | openTry =>
    have sample : seqClock d s = openSample d s := by simp [seqClock, q]
    rw [sample]
    exact openSample_sequencerInv inv d q
  | openDelay => exact wait (.inr q)
  | sendWait => exact wait (.inl q)

theorem Acts.sequencerInv {n : Input} {t : State} (h : Acts n s t) (few : s.cfg.channels ≤ 255) : SequencerInv t := by
  cases h with
  | line writes _ =>
    obtain ⟨_, _, _, _, _, rfl⟩ := writes
    exact ⟨inv.agrees, inv.init, inv.timer, inv.errs⟩
  | clock d _ => exact seqClock_sequencerInv inv d few
  | wait _ => exact waitEnds_sequencerInv inv few
  | notTaken => exact inv
  | run c i _ idle _ ran => exact (ExecEnds.of_exec ran).sequencerInv few inv idle
  | window w e idle _ => exact (execEnds_feedbackFrameOp .recv _ s).sequencerInv few inv idle

end Sequencer

/-! ## A step -/

theorem PortOnly.cfg {s t : State} (h : PortOnly s t) : t.cfg = s.cfg := by
  obtain ⟨_, _, _, _, rfl⟩ := h
  rfl

theorem PortOnly.sequencerInv {s t : State} (h : PortOnly s t) (inv : SequencerInv s) : SequencerInv t := by
  obtain ⟨_, _, _, _, rfl⟩ := h
  exact ⟨inv.agrees, inv.init, inv.timer, inv.errs⟩

theorem hardReset_inv {s : State} (h : s.cfg.legal) : s.hardReset.Inv := resetWith_inv h

/-- Settles O40: the bounds by the moves of a step, the sequencer by its one act, a reset by the state after it. -/
theorem stepKeepsInvariant : Obligations.StepKeepsInvariant := by
  intro s t inv h
  obtain ⟨bounded, sequencer⟩ := (inv_iff s).1 inv
  rcases step_moves h with ⟨-, rfl⟩ | ⟨notReset, moves⟩
  · exact hardReset_inv (by rw [afterInput_cfg]; exact bounded.legal)
  · obtain ⟨u, v, before, act, after⟩ := step_acts notReset h
    have few : u.cfg.channels ≤ 255 := by
      rw [before.cfg]
      exact channels_le_of_legal bounded.legal
    have acted : SequencerInv v := act.sequencerInv (before.sequencerInv sequencer) few
    exact (inv_iff t).2 ⟨moves.keeps move_bounded bounded, after.sequencerInv acted⟩

end Sys2Proof.Machine

/-!
What every step keeps of the order of the bytes, on the transmit and on the receive side (spec/20_memory.md R70, R71;
spec/40_transport_ops.md R140). No sequencer state enters here, so the moves of a step are enough.
-/

namespace Sys2Proof.Machine

/-! ## Transmit order -/

theorem txOrder_txStartStep {s : State} (h : s.txOrder) : (txStartStep s).txOrder := by
  unfold txStartStep
  split
  · rename_i b rest _ shifter staged
    simpa [State.txOrder, TxShifter.byteList, shifter, staged] using h
  · exact h

theorem txOrder_txDoneStep {s : State} (h : s.txOrder) : (txDoneStep s).txOrder := by
  unfold txDoneStep
  split
  · rename_i shifter
    simpa [State.txOrder, TxShifter.byteList, shifter] using h
  · exact h

/-- A move takes a byte from one place of the transmit side to the next, or lets a new one in at its end. -/
theorem move_txOrder (s t : State) (m : Move s t) (h : s.txOrder) : t.txOrder := by
  cases m with
  | push b _ =>
    rw [State.txOrder] at h
    simp [State.txOrder, ← h]
  | flush => simpa [State.txOrder] using h
  | txStart => exact txOrder_txStartStep h
  | txDone => exact txOrder_txDoneStep h
  | shift b c c' k k' p p' busy => simpa [State.txOrder, TxShifter.byteList, busy] using h
  | stage b _ =>
    unfold stageByte
    split
    · exact h
    · exact h
  | control | link | log | env | csr | relay | lastChannel | poll | take | drop | record | rxShift | sync => exact h

/-- Settles O42: every move keeps the order, and a reset empties both sides of the equation. -/
theorem stepKeepsTransmitOrder : Obligations.StepKeepsTransmitOrder := fun _ _ h hstep =>
  step_keeps move_txOrder (fun _ _ => rfl) hstep h

/-! ## Receive order -/

/-- What the receive side holds and has handed on, in order of acceptance (20_memory.md R71). -/
def State.received (s : State) : List Byte := s.hist.taken ++ s.rx.rxq ++ s.rx.rxStage

theorem received_pollRx (s : State) : s.pollRx.received = s.received := by
  simp [State.received]

theorem received_takeRx (n : Nat) (s : State) : (s.takeRx n).received = s.received := by
  simp [State.received]

/-- Receive order and conservation in one. -/
def State.rxConserved (s : State) : Prop :=
  s.received.Sublist s.hist.accepted ∧ s.hist.accepted.length = s.received.length + s.hist.lost.length

theorem rxConserved_iff (s : State) : s.rxConserved ↔ s.rxOrder ∧ s.rxCount := by
  refine and_congr_right fun _ => ?_
  simp only [State.rxCount, State.received, List.length_append]
  omega

theorem rxConserved_of_eq {s t : State} (h : s.rxConserved) (received : t.received = s.received)
    (accepted : t.hist.accepted = s.hist.accepted) (lost : t.hist.lost = s.hist.lost) : t.rxConserved := by
  rwa [State.rxConserved, received, accepted, lost]

/-- A byte staged joins both ends; a full stage loses its oldest byte to the count of the lost (41_line_engine.md R171). -/
theorem rxConserved_stageByte (b : Byte) {s : State} (h : s.rxConserved) : (stageByte b s).rxConserved := by
  obtain ⟨order, count⟩ := h
  unfold stageByte
  split
  · have shorter : (s.hist.taken ++ s.rx.rxq ++ s.rx.rxStage.drop 1).Sublist s.hist.accepted :=
      ((List.drop_sublist 1 _).append_left _).trans order
    refine ⟨?_, ?_⟩
    · simpa [State.received] using shorter.append_right [b]
    · simp only [State.received, List.length_append, List.length_drop, List.length_take, List.length_singleton] at count ⊢
      omega
  · refine ⟨?_, ?_⟩
    · simpa [State.received] using order.append_right [b]
    · simp only [State.received, List.length_append, List.length_singleton] at count ⊢
      omega

theorem rxConserved_txStartStep {s : State} (h : s.rxConserved) : (txStartStep s).rxConserved := by
  unfold txStartStep
  split
  · exact h
  · exact h

theorem rxConserved_txDoneStep {s : State} (h : s.rxConserved) : (txDoneStep s).rxConserved := by
  unfold txDoneStep
  split
  · exact h
  · exact h

theorem move_rxConserved (s t : State) (m : Move s t) (h : s.rxConserved) : t.rxConserved := by
  cases m with
  | poll => exact rxConserved_of_eq h (received_pollRx s) rfl rfl
  | take n => exact rxConserved_of_eq h (received_takeRx n s) rfl rfl
  | stage b _ => exact rxConserved_stageByte b h
  | txStart => exact rxConserved_txStartStep h
  | txDone => exact rxConserved_txDoneStep h
  | control | link | log | env | csr | relay | lastChannel | push | flush | shift | drop | record | rxShift | sync => exact h

/-- Settles O43: every move keeps order and count, and a reset empties the receive side and its histories. -/
theorem stepKeepsReceiveOrder : Obligations.StepKeepsReceiveOrder := fun s t h hstep =>
  (rxConserved_iff t).1 <|
    step_keeps move_rxConserved (fun _ _ => ⟨List.Sublist.refl _, rfl⟩) hstep ((rxConserved_iff s).2 h)

end Sys2Proof.Machine

/-!
`rxq` stays shorter than a frame as long as no raw POLL is issued (spec/20_memory.md R79).
-/

namespace Sys2Proof.Machine

/-! ## Operations -/

theorem initLoop_rxShort (n : Nat) {s : State} (h : s.rxShort) : (initLoop n s).rxShort := by
  induction n generalizing s with
  | zero => exact h
  | succ n ih =>
    have ends := sendFrom_ends (commandCode .check) s.initNext.sqr.initCh s.initNext
    simp only [initLoop]
    generalize sendFrom _ _ _ = p at ends ⊢
    cases ends with
    | result r work => exact ih (s := State.countErr r _) (work.short h)
    | waits work _ => exact work.short h

theorem ExecEnds.rxShort {i : Instr} {s t : State} (h : ExecEnds i s t) (noPoll : i ≠ .poll) (short : s.rxShort) :
    t.rxShort := by
  cases h with
  | finished r work => exact work.short short
  | polled r isPoll => exact absurd isPoll noPoll
  | waits _ work _ => exact work.short short
  | init => exact initLoop_rxShort _ short
  | opening => exact short
  | fatal => exact short

theorem answerWaitEnds_rxShort (s : State) : (answerWaitEnds s).rxShort := by
  have short := recvFrom_rxShort s.waitOver
  simp only [answerWaitEnds]
  split
  · exact initLoop_rxShort _ short
  · exact short

theorem SeqEffect.rxShort {s t : State} (h : SeqEffect s t) (short : s.rxShort) : t.rxShort := by
  cases h with
  | answered => exact answerWaitEnds_rxShort s
  | rest | counted | opened | failed | delayed | attempted => exact short

/-! ## The line engine has no access to `rxq` -/

theorem txClock_rx (s : State) : (txClock s).rx = s.rx := by
  unfold txClock
  split
  · split
    · rfl
    split
    · rfl
    · rw [txStartStep_rx, txDoneStep_rx]
  · exact txStartStep_rx s
  · rfl

theorem stageByte_rxq (b : Byte) (s : State) : (stageByte b s).rx.rxq = s.rx.rxq := by
  unfold stageByte
  split
  · rfl
  · rfl

theorem deliverByte_rxq (b : Byte) (good : Bool) (s : State) : (deliverByte b good s).rx.rxq = s.rx.rxq := by
  unfold deliverByte
  repeat' split
  · exact stageByte_rxq _ _
  · rfl
  · rfl

theorem receiveSample_rxq (x : Bool) (s : State) : (receiveSample x s).rx.rxq = s.rx.rxq := by
  unfold receiveSample sampleBit
  repeat' split
  case isFalse.isFalse.isFalse => exact deliverByte_rxq _ _ _
  all_goals rfl

theorem rxClock_rxq (x : Bool) (s : State) : (rxClock x s).rx.rxq = s.rx.rxq := by
  unfold rxClock
  split
  · exact receiveSample_rxq _ s
  · rfl

/-! ## What is decoded to POLL -/

theorem sendForm_ne_poll (cmd : BitVec 4) (ch : Byte) : sendForm cmd ch ≠ .poll := by
  unfold sendForm
  split <;> nofun

/-- Operation code 5 is POLL's alone (30_encoding.md R102). -/
theorem opField_of_decodeHost_poll {w : HostWord} (h : decodeHost w = .poll) : (opField w).toNat = 5 := by
  unfold decodeHost at h
  split at h
  case h_6 code => exact code
  case h_11 => exact absurd h (sendForm_ne_poll _ _)
  all_goals exact absurd h nofun

theorem opField_toNat (w : HostWord) : (opField w).toNat = w.toNat / 4096 := by
  have := w.isLt
  simp only [opField, BitVec.extractLsb'_toNat, Nat.shiftRight_eq_div_pow]
  omega

theorem decodeHost_ne_poll {w : HostWord} (h : w.toNat / 4096 ≠ 5) : decodeHost w ≠ .poll := fun poll =>
  h ((opField_toNat w).symm.trans (opField_of_decodeHost_poll poll))

theorem commandFrameRow_ne_poll (f : Frame) : commandFrameRow f ≠ .ok .poll := by
  unfold commandFrameRow
  repeat' split
  all_goals nofun

theorem feedbackFrameRow_ne_poll (f : Frame) : feedbackFrameRow f ≠ .ok .poll := by
  unfold feedbackFrameRow
  repeat' split
  all_goals nofun

/-- No relay frame is POLL's word (30_encoding.md R109). -/
theorem decode_relayFrame_ne_poll (d : Direction) (w : FrameWord) : decode (.relayFrame d w) ≠ .ok .poll := by
  intro poll
  cases d with
  | toRelay => exact commandFrameRow_ne_poll _ ((requireChecksum_ok_iff _ _ _).1 poll).1
  | fromRelay => exact feedbackFrameRow_ne_poll _ ((requireChecksum_ok_iff _ _ _).1 poll).1

/-! ## A step -/

theorem PortOnly.rx {s t : State} (h : PortOnly s t) : t.rx = s.rx := by
  obtain ⟨_, _, _, _, rfl⟩ := h
  rfl

theorem PortOnly.rxShort {s t : State} (h : PortOnly s t) (short : s.rxShort) : t.rxShort := by
  rwa [State.rxShort, h.rx]

/-- What the fetch leaves: a short `rxq`, and no POLL to run. -/
def Fetched.short : Fetched → Prop
  | .run i u _ => u.rxShort ∧ i ≠ .poll
  | .done t => t.rxShort
  | .notAFrame => True

theorem present_short {c : CodeWord} {s : State} (short : s.rxShort)
    (noPoll : ∀ w : HostWord, c = .hostCmd w → w.toNat / 4096 ≠ 5) : (present c s).short := by
  by_cases idle : s.sqr.seq = .idle
  case neg =>
    rw [present_notReady c idle]
    exact short
  cases c with
  | hostCmd w =>
    rw [present_hostCmd w idle]
    exact ⟨short, decodeHost_ne_poll (noPoll w rfl)⟩
  | relayFrame d w =>
    cases row : decode (.relayFrame d w) with
    | ok i =>
      rw [present_relayFrame idle row]
      exact ⟨short, fun poll => decode_relayFrame_ne_poll d w (poll ▸ row)⟩
    | error e =>
      cases d with
      | toRelay =>
        rw [present_notCommandFrame idle row]
        trivial
      | fromRelay =>
        rw [present_window idle row]
        exact (execEnds_feedbackFrameOp .recv _ s.clearValid).rxShort nofun short

theorem react_short {n : Input} {s : State} (short : s.rxShort)
    (noPoll : ∀ w : HostWord, n = .present (.hostCmd w) → w.toNat / 4096 ≠ 5) : (react n s).short := by
  have line {t : State} (same : t.rx.rxq = s.rx.rxq) : (Fetched.done t).short := by
    rwa [Fetched.short, State.rxShort, same]
  cases n with
  | present c => exact present_short short fun w word => noPoll w (congrArg Input.present word)
  | seqClk d => exact (portOnly_logResult s _).rxShort ((seqEffect_seqClock d s).rxShort short)
  | waitEnd => exact (portOnly_logResult s _).rxShort ((seqEffect_waitEnds s).rxShort short)
  | txClk => exact line (congrArg RxPath.rxq (txClock_rx s))
  | rxClk x => exact line (rxClock_rxq x s)
  | txStart => exact line (congrArg RxPath.rxq (txStartStep_rx s))
  | txDone => exact line (congrArg RxPath.rxq (txDoneStep_rx s))
  | deliver b good => exact line (deliverByte_rxq b good s)
  | reset => exact Nat.zero_le 3

/-- Settles O50: POLL alone takes bytes into `rxq` and leaves them there; RECV leaves less than a frame or nothing. -/
theorem receiveQueueStaysShort : Obligations.ReceiveQueueStaysShort := by
  intro s t short h noPoll
  have fetched : (fetch s).short := react_short ((portOnly_afterInput s).rxShort short) noPoll
  cases hf : fetch s with
  | run i u hostOp =>
    rw [hf] at fetched
    obtain ⟨before, notPoll⟩ := fetched
    obtain ⟨v, hv, ends⟩ := exec_ends i u
    obtain rfl : _ = t := Host.Outcome.next.inj ((step_of_run hf hv).symm.trans h)
    have after : v.rxShort := ends.rxShort notPoll before
    split
    · exact (portOnly_logResult u v).rxShort after
    · exact after
  | done v =>
    rw [hf] at fetched
    obtain rfl : v = t := Host.Outcome.next.inj ((step_of_done hf).symm.trans h)
    exact fetched
  | notAFrame => exact absurd ((step_of_notAFrame hf).symm.trans h) nofun

end Sys2Proof.Machine

/-!
The register-level queue is the bounded list queue (spec/20_memory.md R76): by where the `i`-th oldest byte stands.
-/

namespace Sys2Proof.Machine

/-- The place of the `i`-th oldest byte. -/
def Ring.slot (r : Ring) (i : Nat) : Nat := (r.rd + i) % r.store.length

theorem Ring.contents_eq (r : Ring) : r.contents = (List.range r.occ).map fun i => r.store.getD (r.slot i) 0#8 := rfl

@[simp] theorem Ring.length_contents (r : Ring) : r.contents.length = r.occ := by simp [Ring.contents]

theorem Ring.contents_eq_nil_iff (r : Ring) : r.contents = [] ↔ r.occ = 0 := by
  rw [← List.length_eq_zero_iff, Ring.length_contents]

/-- Two places less than a whole turn apart differ. -/
theorem Ring.slot_ne {r : Ring} {i j : Nat} (hi : i < j) (hj : j < r.store.length) : r.slot j ≠ r.slot i := by
  intro same
  have turn : j ≡ i [MOD r.store.length] := Nat.ModEq.add_left_cancel' r.rd same
  exact hi.ne' (Nat.ModEq.eq_of_lt_of_lt turn hj (hi.trans hj))

theorem emptyOver_wf {store : List Byte} (h : store ≠ []) : (Ring.emptyOver store).wf := by
  have pos : 1 ≤ store.length := List.length_pos_iff.2 h
  exact ⟨pos, pos, Nat.zero_le _, (Nat.zero_mod _).symm⟩

section Enqueue

variable {r : Ring} (b : Byte) (wf : r.wf)

theorem Ring.enqueue_full (full : r.occ = r.store.length) : r.enqueue b = (r, false) := by
  simp [Ring.enqueue, full]

theorem Ring.enqueue_room (room : r.occ < r.store.length) :
    r.enqueue b =
      ({ r with store := r.store.set r.wr b, wr := (r.wr + 1) % r.store.length, occ := r.occ + 1 }, true) := by
  simp [Ring.enqueue, room]

theorem Ring.enqueue_length : (r.enqueue b).1.store.length = r.store.length := by
  unfold Ring.enqueue
  split
  · exact List.length_set
  · rfl

include wf

/-- The byte written stands at the place after the newest; no other byte of the queue stands there. -/
theorem Ring.contents_enqueue (room : r.occ < r.store.length) : (r.enqueue b).1.contents = r.contents ++ [b] := by
  obtain ⟨pos, -, -, wr⟩ := wf
  have inside : r.slot r.occ < r.store.length := Nat.mod_lt _ pos
  have new : (r.store.set (r.slot r.occ) b).getD (r.slot r.occ) 0#8 = b := by simp [inside]
  have old : ∀ i ∈ List.range r.occ,
      (r.store.set (r.slot r.occ) b).getD (r.slot i) 0#8 = r.store.getD (r.slot i) 0#8 := by
    intro i hi
    have apart := Ring.slot_ne (List.mem_range.1 hi) room
    simp [List.getD_eq_getElem?_getD, List.getElem?_set_ne apart]
  have wr' : r.wr = r.slot r.occ := wr
  rw [Ring.enqueue_room b room, Ring.contents_eq, Ring.contents_eq, List.range_succ, List.map_append, wr']
  simp only [Ring.slot, List.length_set, List.map_cons, List.map_nil] at old new ⊢
  rw [List.map_congr_left old, new]

theorem Ring.enqueue_wf : (r.enqueue b).1.wf := by
  obtain ⟨pos, rd, occ, wr⟩ := wf
  by_cases room : r.occ < r.store.length
  · rw [Ring.enqueue_room b room]
    have next : (r.wr + 1) % r.store.length = (r.rd + (r.occ + 1)) % r.store.length := by
      rw [wr, Nat.mod_add_mod, Nat.add_assoc]
    simpa [Ring.wf, next] using ⟨pos, rd, room⟩
  · rw [Ring.enqueue_full b (by omega)]
    exact ⟨pos, rd, occ, wr⟩

end Enqueue

/-! ## Dequeue -/

theorem Ring.settle_contents (r : Ring) : r.settle.contents = r.contents := by
  unfold Ring.settle
  split
  · rename_i drained
    simp [Ring.contents, drained]
  · rfl

theorem Ring.settle_store (r : Ring) : r.settle.store = r.store := by
  unfold Ring.settle
  split
  · rfl
  · rfl

theorem Ring.settle_wf {r : Ring} (wf : r.wf) : r.settle.wf := by
  obtain ⟨pos, rd, occ, wr⟩ := wf
  unfold Ring.settle
  split
  · rename_i drained
    exact ⟨pos, pos, occ, by simp [drained]⟩
  · exact ⟨pos, rd, occ, wr⟩

theorem Ring.settle_drained {r : Ring} (drained : r.occ = 0) : r.settle.rd = 0 ∧ r.settle.wr = 0 := by
  simp [Ring.settle, drained]

/-- The registers after the oldest byte is given up, before they settle (20_memory.md R76). -/
def Ring.advance (r : Ring) : Ring := { r with rd := (r.rd + 1) % r.store.length, occ := r.occ - 1 }

theorem Ring.dequeue_empty {r : Ring} (empty : r.occ = 0) : r.dequeue = (r, none) := by simp [Ring.dequeue, empty]

theorem Ring.dequeue_some {r : Ring} (held : 0 < r.occ) :
    r.dequeue = (r.advance.settle, some (r.store.getD r.rd 0#8)) := by
  simp [Ring.dequeue, Ring.advance, held]

theorem Ring.slot_advance (r : Ring) (i : Nat) : r.advance.slot i = r.slot (i + 1) := by
  simp [Ring.slot, Ring.advance, Nat.add_assoc, Nat.add_comm 1 i]

/-- A queue that holds a byte is that byte, then what the registers hold once they have gone one place on. -/
theorem Ring.contents_eq_cons {r : Ring} (wf : r.wf) (held : 0 < r.occ) :
    r.contents = r.store.getD r.rd 0#8 :: r.advance.contents := by
  obtain ⟨-, rd, -, -⟩ := wf
  have first : r.slot 0 = r.rd := Nat.mod_eq_of_lt rd
  obtain ⟨n, hn⟩ : ∃ n, r.occ = n + 1 := ⟨r.occ - 1, by omega⟩
  have left : r.advance.occ = n := by simp [Ring.advance, hn]
  have kept : r.advance.store = r.store := rfl
  rw [Ring.contents_eq, Ring.contents_eq, hn, left, kept, List.range_succ_eq_map, List.map_cons, first, List.map_map]
  simp only [Ring.slot_advance]
  rfl

theorem Ring.advance_wf {r : Ring} (wf : r.wf) (held : 0 < r.occ) : r.advance.wf := by
  obtain ⟨pos, rd, occ, wr⟩ := wf
  refine ⟨pos, Nat.mod_lt _ pos, (Nat.sub_le _ _).trans occ, ?_⟩
  have same : r.rd + r.occ = r.rd + 1 + (r.occ - 1) := by omega
  simp only [Ring.advance]
  rw [wr, Nat.mod_add_mod, same]

theorem Ring.dequeue_wf {r : Ring} (wf : r.wf) : r.dequeue.1.wf := by
  rcases Nat.eq_zero_or_pos r.occ with empty | held
  · rwa [Ring.dequeue_empty empty]
  · rw [Ring.dequeue_some held]
    exact Ring.settle_wf (Ring.advance_wf wf held)

theorem Ring.dequeue_length (r : Ring) : r.dequeue.1.store.length = r.store.length := by
  rcases Nat.eq_zero_or_pos r.occ with empty | held
  · rw [Ring.dequeue_empty empty]
  · rw [Ring.dequeue_some held, Ring.settle_store]
    rfl

theorem Ring.dequeue_oldest {r : Ring} (wf : r.wf) {x : Byte} {rest : List Byte} (h : r.contents = x :: rest) :
    r.dequeue.2 = some x ∧ r.dequeue.1.contents = rest ∧ (rest = [] → r.dequeue.1.rd = 0 ∧ r.dequeue.1.wr = 0) := by
  have held : 0 < r.occ := by simp [← Ring.length_contents, h]
  rw [Ring.contents_eq_cons wf held] at h
  obtain ⟨oldest, others⟩ := List.cons.inj h
  rw [Ring.dequeue_some held]
  refine ⟨congrArg some oldest, (Ring.settle_contents _).trans others, fun drained => ?_⟩
  exact Ring.settle_drained ((Ring.contents_eq_nil_iff _).1 (others.trans drained))

/-- Settles O60: by where each byte of the queue stands before and after the indices move. -/
theorem ringRefinesQueue : Obligations.RingRefinesQueue := by
  refine ⟨fun store h => ⟨emptyOver_wf h, rfl⟩, fun r b wf => ?_⟩
  simp only [Ring.length_contents, Ring.contents_eq_nil_iff]
  have ⟨_, _, bound, _⟩ := wf
  exact ⟨bound, fun room => ⟨by rw [Ring.enqueue_room b room], Ring.contents_enqueue b wf room⟩, Ring.enqueue_full b,
    Ring.enqueue_wf b wf, Ring.enqueue_length b, Ring.dequeue_empty, fun _ _ => Ring.dequeue_oldest wf,
    Ring.dequeue_wf wf, Ring.dequeue_length r⟩

end Sys2Proof.Machine

/-!
The encoding, both ways: what each code word decodes to, which fields of a command word count, and that encoding undoes
decoding (spec/30_encoding.md R91 to R93, R101, R102, R104, R107, R109).
-/

namespace Sys2Proof

/-! ## The fields of a command word -/

/-- A word with the value `n` is the literal `n`. -/
theorem eq_ofNat_of_toNat {k n : Nat} {x : BitVec k} (h : x.toNat = n) : x = BitVec.ofNat k n := by
  rw [← h, BitVec.ofNat_toNat, BitVec.setWidth_eq]

theorem opField_eq_iff (w v : HostWord) : opField w = opField v ↔ w.toNat / 4096 = v.toNat / 4096 := by
  rw [← BitVec.toNat_inj, Machine.opField_toNat, Machine.opField_toNat]

theorem aField_toNat (w : HostWord) : (aField w).toNat = w.toNat / 256 % 16 := by
  simp [aField, Nat.shiftRight_eq_div_pow]

theorem dField_toNat (w : HostWord) : (dField w).toNat = w.toNat % 256 := by
  simp [dField]

/-! ## The sub-form rows of SEND -/

/-- A Command code is one of the eight Commands' or a reserved one (30_encoding.md R94). -/
theorem commandCode_or_reserved (cmd : BitVec 4) : (∃ c, cmd = Machine.commandCode c) ∨ 8 ≤ cmd.toNat := by
  by_cases reserved : 8 ≤ cmd.toNat
  · exact .inr reserved
  left
  obtain h | h | h | h | h | h | h | h : cmd.toNat = 0 ∨ cmd.toNat = 1 ∨ cmd.toNat = 2 ∨ cmd.toNat = 3 ∨
      cmd.toNat = 4 ∨ cmd.toNat = 5 ∨ cmd.toNat = 6 ∨ cmd.toNat = 7 := by omega
  · exact ⟨.off, eq_ofNat_of_toNat h⟩
  · exact ⟨.on, eq_ofNat_of_toNat h⟩
  · exact ⟨.offCheck, eq_ofNat_of_toNat h⟩
  · exact ⟨.onCheck, eq_ofNat_of_toNat h⟩
  · exact ⟨.negateCheck, eq_ofNat_of_toNat h⟩
  · exact ⟨.check, eq_ofNat_of_toNat h⟩
  · exact ⟨.none, eq_ofNat_of_toNat h⟩
  · exact ⟨.error, eq_ofNat_of_toNat h⟩

theorem sendForm_of_reserved {code : BitVec 4} (reserved : 8 ≤ code.toNat) (ch : Byte) :
    sendForm code ch = .sendReserved code ch := by
  unfold sendForm
  split
  case h_9 => rfl
  all_goals omega

theorem sendForm_wellFormed (cmd : BitVec 4) (ch : Byte) : (sendForm cmd ch).wellFormed = true := by
  obtain ⟨c, rfl⟩ | reserved := commandCode_or_reserved cmd
  · cases c <;> rfl
  · rw [sendForm_of_reserved reserved]
    exact decide_eq_true reserved

theorem sendForm_isHostOp (cmd : BitVec 4) (ch : Byte) : Machine.isHostOp (sendForm cmd ch) = true := by
  obtain ⟨c, rfl⟩ | reserved := commandCode_or_reserved cmd
  · cases c <;> rfl
  · rw [sendForm_of_reserved reserved]
    rfl

theorem sendForm_ne_reserved0 (cmd : BitVec 4) (ch : Byte) : sendForm cmd ch ≠ .reserved0 := by
  obtain ⟨c, rfl⟩ | reserved := commandCode_or_reserved cmd
  · cases c <;> nofun
  · rw [sendForm_of_reserved reserved]
    nofun

/-- Every sub-form row means what the generic row means with its Command code (43_protocol_driver.md R212 to R220). -/
theorem exec_sendForm (cmd : BitVec 4) (ch : Byte) (s : Machine.State) :
    Machine.exec (sendForm cmd ch) s = .next (Machine.sendOp cmd ch s) := by
  obtain ⟨c, rfl⟩ | reserved := commandCode_or_reserved cmd
  · cases c <;> rfl
  · rw [sendForm_of_reserved reserved]
    rfl

/-- The row the decoder answers means the same as the row encoded (log entry 8). -/
theorem exec_asDecoded (i : Instr) (s : Machine.State) : Machine.exec i.asDecoded s = Machine.exec i s := by
  cases i
  case send cmd ch => exact exec_sendForm cmd ch s
  all_goals rfl

/-! ## Decoding an encoded instruction -/

/-- A SEND word is read as the sub-form its Command code selects (30_encoding.md R109). -/
theorem decodeHost_sendWord (cmd : BitVec 4) (ch : Byte) : decodeHost (hostWord 0xA#4 cmd ch) = sendForm cmd ch := by
  simp [decodeHost]

/-- Field `a` of a COMPOSE word holds its two operands (30_encoding.md R107). -/
theorem decodeHost_composeWord (r fb : Bool) : decodeHost (hostWord 0xC#4 (composeField r fb) 0#8) = .compose r fb := by
  cases r <;> cases fb <;> rfl

/-- A frame with the marker and its own checksum decodes to its row (30_encoding.md R109). -/
theorem decode_commandFrame {ch code ck : Byte} {i : Instr} (own : checksumMatches ch code ck = true)
    (row : commandFrameRow { f0 := marker, f1 := ch, f2 := code, f3 := ck } = .ok i) :
    decode (frameWord .toRelay ch code ck) = .ok i := by
  simp only [frameWord, decode, frame_ofWord_toWord, decodeCommandFrame, requireChecksum_ok_iff]
  exact ⟨row, own⟩

theorem decode_feedbackFrame {ch code ck : Byte} {i : Instr} (own : checksumMatches ch code ck = true)
    (row : feedbackFrameRow { f0 := marker, f1 := ch, f2 := code, f3 := ck } = .ok i) :
    decode (frameWord .fromRelay ch code ck) = .ok i := by
  simp only [frameWord, decode, frame_ofWord_toWord, decodeFeedbackFrame, requireChecksum_ok_iff]
  exact ⟨row, own⟩

/-- Decoding undoes encoding, the generic SEND row apart, which is read as its sub-form (30_encoding.md R109; log entry 8). -/
theorem decode_encode {i : Instr} (wf : i.wellFormed = true) : decode (encode i) = .ok i.asDecoded := by
  cases i with
  | frameOff | frameOn | frameOffCheck | frameOnCheck | frameNegateCheck | frameCheck => exact decode_commandFrame wf rfl
  | fbOff | fbOn => exact decode_feedbackFrame wf rfl
  | send cmd ch | sendOff | sendOn | sendOffCheck | sendOnCheck | sendNegateCheck | sendCheck | sendNone | sendError =>
    exact congrArg Except.ok (decodeHost_sendWord _ _)
  | sendReserved code ch =>
    exact congrArg Except.ok ((decodeHost_sendWord code ch).trans (sendForm_of_reserved (of_decide_eq_true wf) ch))
  | compose r fb => exact congrArg Except.ok (decodeHost_composeWord r fb)
  | reserved0 | openLink | flush | poll | deq | pendw | pendr | init | recv => rfl
  | cfgwr | enq | cmd2bool | rdstate | rdcsr => simp [encode, decode, decodeHost, Instr.asDecoded]

/-! ## Encoding a decoded frame -/

/-- A row a command frame selects encodes to that frame, and is well formed exactly when the frame's checksum is its own. -/
theorem encode_of_commandFrameRow {f : Frame} {i : Instr} (row : commandFrameRow f = .ok i) :
    encode i = .relayFrame .toRelay f.toWord ∧ i.wellFormed = f.valid := by
  obtain ⟨m, ch, code, ck⟩ := f
  unfold commandFrameRow at row
  split at row
  case isTrue => cases row
  case isFalse marked =>
    obtain rfl : m = marker := by simpa using marked
    split at row
    case h_7 => cases row
    all_goals
      rename_i value
      obtain rfl := eq_ofNat_of_toNat value
      cases row
      exact ⟨rfl, rfl⟩

theorem encode_of_feedbackFrameRow {f : Frame} {i : Instr} (row : feedbackFrameRow f = .ok i) :
    encode i = .relayFrame .fromRelay f.toWord ∧ i.wellFormed = f.valid := by
  obtain ⟨m, ch, code, ck⟩ := f
  unfold feedbackFrameRow at row
  split at row
  case isTrue => cases row
  case isFalse marked =>
    obtain rfl : m = marker := by simpa using marked
    split at row
    case h_3 => cases row
    all_goals
      rename_i value
      obtain rfl := eq_ofNat_of_toNat value
      cases row
      exact ⟨rfl, rfl⟩

/-- Encoding undoes the decoding of a 32-bit number, no bit of which is dropped (30_encoding.md R109). -/
theorem encode_decode_relayFrame {d : Direction} {w : FrameWord} {i : Instr} (h : decode (.relayFrame d w) = .ok i) :
    i.wellFormed = true ∧ encode i = .relayFrame d w := by
  cases d with
  | toRelay =>
    obtain ⟨row, valid⟩ := (requireChecksum_ok_iff _ _ _).1 h
    obtain ⟨word, wf⟩ := encode_of_commandFrameRow row
    exact ⟨wf.trans valid, by rw [word, frame_toWord_ofWord]⟩
  | fromRelay =>
    obtain ⟨row, valid⟩ := (requireChecksum_ok_iff _ _ _).1 h
    obtain ⟨word, wf⟩ := encode_of_feedbackFrameRow row
    exact ⟨wf.trans valid, by rw [word, frame_toWord_ofWord]⟩

/-- Settles O1: decoding an encoded instruction row by row, and encoding a decoded frame by the bytes its row fixes. -/
theorem decodeOfEncode : Obligations.DecodeOfEncode :=
  ⟨fun _ => decode_encode, exec_asDecoded, fun _ _ _ => encode_decode_relayFrame⟩

/-! ## Which fields count -/

/-- Every row of the operation map is well formed and a host operation (30_encoding.md R102). -/
theorem decodeHost_wellFormed (w : HostWord) : (decodeHost w).wellFormed = true ∧ Machine.isHostOp (decodeHost w) = true := by
  unfold decodeHost
  split
  case h_11 => exact ⟨sendForm_wellFormed _ _, sendForm_isHostOp _ _⟩
  all_goals exact ⟨rfl, rfl⟩

/-- Operation code 0 alone is the reserved one (30_encoding.md R104). -/
theorem decodeHost_eq_reserved0_iff (w : HostWord) : decodeHost w = .reserved0 ↔ (opField w).toNat = 0 := by
  unfold decodeHost
  split
  case h_1 code => exact iff_of_true rfl code
  case h_11 code => exact iff_of_false (sendForm_ne_reserved0 _ _) (by omega)
  all_goals exact iff_of_false nofun (by omega)

/-- The operations without operands read nothing but `op` (30_encoding.md R101, R102). -/
theorem decodeHost_eq_of_opField {w v : HostWord} (same : opField w = opField v)
    (plain : (opField w).toNat ∈ [0, 2, 4, 5, 6, 7, 8, 9, 11]) : decodeHost w = decodeHost v := by
  simp only [List.mem_cons, List.not_mem_nil, or_false] at plain
  rcases plain with code | code | code | code | code | code | code | code | code <;> simp [decodeHost, ← same, code]

/-- ENQ and RDSTATE read `op` and `d`. -/
theorem decodeHost_eq_of_dField {w v : HostWord} (same : opField w = opField v) (sameD : dField w = dField v)
    (readsD : (opField w).toNat ∈ [3, 14]) : decodeHost w = decodeHost v := by
  simp only [List.mem_cons, List.not_mem_nil, or_false] at readsD
  rcases readsD with code | code <;> simp [decodeHost, ← same, code, sameD]

/-- CMD2BOOL and RDCSR read `op` and `a`. -/
theorem decodeHost_eq_of_aField {w v : HostWord} (same : opField w = opField v) (sameA : aField w = aField v)
    (readsA : (opField w).toNat ∈ [13, 15]) : decodeHost w = decodeHost v := by
  simp only [List.mem_cons, List.not_mem_nil, or_false] at readsA
  rcases readsA with code | code <;> simp [decodeHost, ← same, code, sameA]

/-- COMPOSE reads `op` and the two low bits of `a`. -/
theorem decodeHost_eq_of_low_aField {w v : HostWord} (same : opField w = opField v)
    (sameLow : (aField w).toNat % 2 ^ 2 = (aField v).toNat % 2 ^ 2) (compose : (opField w).toNat = 12) :
    decodeHost w = decodeHost v := by
  have bit (j : Nat) (hj : j < 2) : (aField w).getLsbD j = (aField v).getLsbD j := by
    have low := congrArg (Nat.testBit · j) sameLow
    simpa only [Nat.testBit_mod_two_pow, hj, decide_true, Bool.true_and, BitVec.testBit_toNat] using low
  have bit0 := bit 0 (by decide)
  have bit1 := bit 1 (by decide)
  simp only [decodeHost, ← same, compose, bit0, bit1]

/-- Settles O2: by the row of each operation code and by which fields that row reads. -/
theorem commandWordDecoding : Obligations.CommandWordDecoding := by
  refine ⟨fun w => ?_, fun w v sameOp => ?_⟩
  · obtain ⟨wf, hostOp⟩ := decodeHost_wellFormed w
    rw [← Machine.opField_toNat]
    exact ⟨decodeHost w, rfl, wf, hostOp, decodeHost_eq_reserved0_iff w⟩
  have same := (opField_eq_iff w v).2 sameOp
  simp only [decode, ← Machine.opField_toNat]
  refine ⟨fun plain => congrArg _ (decodeHost_eq_of_opField same plain),
    fun readsD low => congrArg _ (decodeHost_eq_of_dField same ?_ readsD),
    fun readsA high => congrArg _ (decodeHost_eq_of_aField same ?_ readsA),
    fun compose low => congrArg _ (decodeHost_eq_of_low_aField same ?_ compose)⟩
  · rw [← BitVec.toNat_inj, dField_toNat, dField_toNat, low]
  · rw [← BitVec.toNat_inj, aField_toNat, aField_toNat, high]
  · rw [aField_toNat, aField_toNat]
    omega

/-- Settles O3: each word, written out, is evaluated. -/
theorem writtenWordsDecode : Obligations.WrittenWordsDecode :=
  ⟨rfl, rfl, rfl, rfl, rfl, rfl, rfl, rfl, rfl⟩

end Sys2Proof

/-!
What every step keeps of the result registers (spec/30_encoding.md R103).
-/

namespace Sys2Proof.Machine

/-- The general law of a result, of the result registers. -/
abbrev State.resLawful (s : State) : Prop := resultLawful s.res.cmd s.res.err s.res.val

@[simp] theorem txStartStep_res (s : State) : (txStartStep s).res = s.res := by
  unfold txStartStep
  split <;> rfl

@[simp] theorem txDoneStep_res (s : State) : (txDoneStep s).res = s.res := by
  unfold txDoneStep
  split <;> rfl

@[simp] theorem stageByte_res (b : Byte) (s : State) : (stageByte b s).res = s.res := by
  unfold stageByte
  split <;> rfl

/-- The result registers are written by `control` alone, which writes a lawful result or keeps the one that stands. -/
theorem move_resLawful (s t : State) (m : Move s t) (h : s.resLawful) : t.resLawful := by
  cases m with
  | control q r law =>
    obtain lawful | ⟨cmd, err, val⟩ := law
    · exact lawful
    · change resultLawful r.cmd r.err r.val
      rwa [cmd, err, val]
  | txStart => rwa [State.resLawful, txStartStep_res]
  | txDone => rwa [State.resLawful, txDoneStep_res]
  | stage b _ => rwa [State.resLawful, stageByte_res]
  | link | log | env | csr | relay | lastChannel | push | flush | poll | take | shift | drop | record | rxShift | sync =>
    exact h

theorem hardReset_resLawful (s : State) : s.hardReset.resLawful :=
  ⟨fun failed => absurd rfl failed, fun _ => nofun⟩

/-- Settles O46: every move keeps the law, and the result registers after a reset obey it. -/
theorem stepKeepsResultLaw : Obligations.StepKeepsResultLaw := fun _ _ h hstep =>
  step_keeps move_resLawful (fun s _ => hardReset_resLawful s.afterInput) hstep h

end Sys2Proof.Machine

/-!
The character on the line and what a receiver makes of one (spec/30_encoding.md R105, R106; spec/20_memory.md R63;
spec/41_line_engine.md R169, R170).
-/

namespace Sys2Proof.Machine

/-! ## The fields of LINE_FMT -/

theorem dataBits_eq (fmt : Byte) : dataBits fmt = 5 + fmt.toNat % 4 := by
  simp [dataBits]

theorem stopBits_eq (fmt : Byte) : stopBits fmt = 1 + fmt.toNat / 16 % 2 := by
  simp only [stopBits, ← BitVec.testBit_toNat, Nat.testBit_eq_decide_div_mod_eq]
  rcases Nat.mod_two_eq_zero_or_one (fmt.toNat / 16) with h | h <;> simp [h]

/-- `PAR`, as a number (10_state.md R32). -/
theorem parField_toNat (fmt : Byte) : (fmt.extractLsb' 2 2).toNat = fmt.toNat / 4 % 4 := by
  simp [Nat.shiftRight_eq_div_pow]

theorem parityOf_eq_none_iff (fmt : Byte) : parityOf fmt = .none ↔ fmt.toNat / 4 % 4 = 0 := by
  rw [← parField_toNat]
  unfold parityOf
  split
  case h_1 none => exact iff_of_true rfl none
  all_goals exact iff_of_false nofun (by omega)

theorem parityOf_odd {fmt : Byte} (par : fmt.toNat / 4 % 4 = 1) : parityOf fmt = .odd := by
  simp only [parityOf, parField_toNat, par]

theorem parityOf_even {fmt : Byte} (par : fmt.toNat / 4 % 4 = 2) : parityOf fmt = .even := by
  simp only [parityOf, parField_toNat, par]

/-- A legal format has no parity bit, or an odd or an even one (10_state.md R32). -/
theorem par_of_legal {fmt : Byte} (legal : lineFmtLegal fmt = true) :
    fmt.toNat / 4 % 4 = 0 ∨ fmt.toNat / 4 % 4 = 1 ∨ fmt.toNat / 4 % 4 = 2 := by
  have notThree : fmt.toNat / 4 % 4 ≠ 3 := by
    simp only [lineFmtLegal, Bool.and_eq_true, bne_iff_ne] at legal
    obtain ⟨-, par⟩ := legal
    rwa [Ne, ← BitVec.toNat_inj, parField_toNat] at par
  omega

/-- The number of line bits of a character, by the fields of its format (30_encoding.md R105). -/
theorem charLength_eq (fmt : Byte) :
    charLength fmt = 1 + dataBits fmt + (if fmt.toNat / 4 % 4 = 0 then 0 else 1) + stopBits fmt := by
  simp only [charLength, parityOf_eq_none_iff]

/-! ## Parity -/

theorem foldl_xor (data : List Bool) (acc : Bool) :
    data.foldl Bool.xor acc = (acc ^^ decide (data.countP (fun x => x) % 2 = 1)) := by
  induction data generalizing acc with
  | nil => simp
  | cons x xs ih =>
    rw [List.foldl_cons, ih]
    cases x with
    | false => simp
    | true =>
      rcases Nat.mod_two_eq_zero_or_one (xs.countP (fun x => x)) with ones | ones <;> simp [Nat.add_mod, ones]

/-- The xor of the data bits tells whether the ones are odd in number (30_encoding.md R106). -/
theorem xorBits_eq (data : List Bool) : xorBits data = decide (data.countP (fun x => x) % 2 = 1) := by
  rw [xorBits, foldl_xor, Bool.false_xor]

theorem parityBits_none {fmt : Byte} (par : fmt.toNat / 4 % 4 = 0) (data : List Bool) : parityBits fmt data = [] := by
  simp only [parityBits, (parityOf_eq_none_iff fmt).2 par]

theorem parityBits_odd {fmt : Byte} (par : fmt.toNat / 4 % 4 = 1) (data : List Bool) :
    parityBits fmt data = [decide (data.countP (fun x => x) % 2 = 0)] := by
  simp [parityBits, parityOf_odd par, xorBits_eq, ← decide_not]

theorem parityBits_even {fmt : Byte} (par : fmt.toNat / 4 % 4 = 2) (data : List Bool) :
    parityBits fmt data = [decide (data.countP (fun x => x) % 2 = 1)] := by
  simp only [parityBits, parityOf_even par, xorBits_eq]

theorem length_parityBits (fmt : Byte) (data : List Bool) :
    (parityBits fmt data).length = if fmt.toNat / 4 % 4 = 0 then 0 else 1 := by
  simp only [← parityOf_eq_none_iff, parityBits]
  cases parityOf fmt <;> rfl

/-! ## The character sent -/

theorem length_charBits (fmt b : Byte) : (charBits fmt b).length = charLength fmt := by
  simp only [charBits, charLength_eq, List.length_cons, List.length_append, length_dataBitsOf, length_parityBits,
    List.length_replicate]
  omega

theorem charBits_data (fmt b : Byte) {j : Nat} (hj : j < dataBits fmt) : (charBits fmt b)[j + 1]? = some (b.getLsbD j) := by
  rw [charBits, List.getElem?_cons_succ, List.getElem?_append_left (by simpa using hj)]
  simp [dataBitsOf, hj]

theorem charBits_parity (fmt b : Byte) {x : Bool} (bit : parityBits fmt (dataBitsOf fmt b) = [x]) :
    (charBits fmt b)[dataBits fmt + 1]? = some x := by
  rw [charBits, List.getElem?_cons_succ, List.getElem?_append_right (by simp)]
  simp [bit]

theorem charBits_stop (fmt b : Byte) {j : Nat} (hj : dataBits fmt + 1 + (if fmt.toNat / 4 % 4 = 0 then 0 else 1) ≤ j)
    (hl : j < charLength fmt) : (charBits fmt b)[j]? = some true := by
  obtain ⟨i, rfl⟩ : ∃ i, j = i + 1 := ⟨j - 1, by omega⟩
  have lengths := length_parityBits fmt (dataBitsOf fmt b)
  rw [charLength_eq] at hl
  rw [charBits, List.getElem?_cons_succ, ← List.append_assoc, List.getElem?_append_right, List.getElem?_replicate_of_lt]
  · simp only [List.length_append, length_dataBitsOf, lengths]
    omega
  · simp only [List.length_append, length_dataBitsOf, lengths]
    omega

/-! ## The bits received -/

/-- The ones among a byte's sent data bits, counted by index. -/
theorem countP_dataBitsOf (fmt b : Byte) :
    (dataBitsOf fmt b).countP (fun x => x) = (List.range (dataBits fmt)).countP fun j => b.getLsbD j := by
  rw [dataBitsOf, List.countP_map]
  rfl

theorem sampledData_charBits (fmt b : Byte) : sampledData fmt ((charBits fmt b).drop 1) = dataBitsOf fmt b := by
  simp [sampledData, charBits]

theorem charGood_charBits (fmt b : Byte) : charGood fmt ((charBits fmt b).drop 1) = true := by
  rw [charGood, sampledData_charBits]
  simp [charBits]

/-- Bit `j` of the number that data bits stand for is the `j`-th of them (41_line_engine.md R169). -/
theorem testBit_foldr_bits (data : List Bool) (j : Nat) :
    (data.foldr (fun (b : Bool) n => b.toNat + 2 * n) 0).testBit j = data.getD j false := by
  induction data generalizing j with
  | nil => simp
  | cons x xs ih =>
    rw [List.foldr_cons]
    cases j with
    | zero => cases x <;> simp [Nat.testBit_zero, Nat.add_mod]
    | succ j =>
      have half (n : Nat) : (x.toNat + 2 * n) / 2 = n := by
        have := x.toNat_lt
        omega
      rw [Nat.testBit_succ, half, ih, List.getD_cons_succ]

theorem getLsbD_byteOfBits (data : List Bool) {j : Nat} (hj : j < 8) :
    (byteOfBits data).getLsbD j = data.getD j false := by
  rw [byteOfBits, BitVec.getLsbD_ofNat, decide_eq_true hj, Bool.true_and, testBit_foldr_bits]

theorem getD_sampledData (fmt : Byte) (bits : List Bool) (j : Nat) :
    (sampledData fmt bits).getD j false = (decide (j < dataBits fmt) && bits.getD j false) := by
  by_cases hj : j < dataBits fmt <;> simp [sampledData, List.getD_eq_getElem?_getD, hj]

/-- A byte read back has its data bits and no others (70_reset_and_hazards.md R320). -/
theorem byteOfBits_dataBitsOf (fmt b : Byte) : byteOfBits (dataBitsOf fmt b) = lineByte fmt b := by
  apply BitVec.eq_of_getLsbD_eq
  intro j hj
  rw [getLsbD_byteOfBits _ hj, lineByte, BitVec.getLsbD_ofNat, Nat.testBit_mod_two_pow, BitVec.testBit_toNat]
  by_cases sent : j < dataBits fmt <;> simp [dataBitsOf, List.getD_eq_getElem?_getD, sent, hj]

/-! ## The verdict -/

theorem drop_eq_replicate_iff {bits : List Bool} {m k : Nat} (length : m + k = bits.length) :
    bits.drop m = List.replicate k true ↔ ∀ j, m ≤ j → j < bits.length → bits.getD j false = true := by
  constructor
  · intro stops j hm hj
    have stop : (bits.drop m)[j - m]? = some true := by
      rw [stops, List.getElem?_replicate_of_lt (by omega)]
    rw [List.getElem?_drop, Nat.add_sub_cancel' hm] at stop
    rw [List.getD_eq_getElem?_getD, stop]
    rfl
  · intro stops
    refine List.eq_replicate_iff.2 ⟨by rw [List.length_drop]; omega, fun x hx => ?_⟩
    obtain ⟨i, hi, rfl⟩ := List.getElem_of_mem hx
    rw [List.length_drop] at hi
    have stop := stops (m + i) (by omega) (by omega)
    rwa [List.getD_eq_getElem _ _ (by omega), ← List.getElem_drop] at stop

/-- Without a parity bit a character is good when all that follows its data bits is 1 (41_line_engine.md R170). -/
theorem charGood_iff_of_no_parity {fmt : Byte} {bits : List Bool} (bit : parityBits fmt (sampledData fmt bits) = [])
    (length : dataBits fmt + stopBits fmt = bits.length) :
    charGood fmt bits = true ↔ ∀ j, dataBits fmt ≤ j → j < bits.length → bits.getD j false = true := by
  rw [charGood, bit, List.nil_append, beq_iff_eq, drop_eq_replicate_iff length]

/-- With a parity bit the first bit after the data bits must be the computed one. -/
theorem charGood_iff_of_parity {fmt : Byte} {bits : List Bool} {x : Bool}
    (bit : parityBits fmt (sampledData fmt bits) = [x]) (length : dataBits fmt + 1 + stopBits fmt = bits.length) :
    charGood fmt bits = true ↔ bits.getD (dataBits fmt) false = x ∧
      ∀ j, dataBits fmt + 1 ≤ j → j < bits.length → bits.getD j false = true := by
  have hn : dataBits fmt < bits.length := by omega
  rw [charGood, bit, List.singleton_append, beq_iff_eq, List.drop_eq_getElem_cons hn, List.cons.injEq,
    drop_eq_replicate_iff length, List.getD_eq_getElem _ _ hn]

/-- Settles O55: each clause by the character's parts; the verdict by the three kinds of a legal format. -/
theorem characterReadsBack : Obligations.CharacterReadsBack := by
  intro fmt n p legal hn hp
  obtain rfl : n = dataBits fmt := hn.trans (dataBits_eq fmt).symm
  subst hp
  refine ⟨?_, fun b => ⟨length_charBits fmt b, rfl, fun _ => charBits_data fmt b, ?_, ?_, fun _ => charBits_stop fmt b,
    charGood_charBits fmt b, ?_⟩, fun bits length => ⟨fun j hj => ?_, ?_⟩⟩
  · rw [charLength_eq, stopBits_eq]
    omega
  · intro odd
    rw [← countP_dataBitsOf]
    exact charBits_parity fmt b (parityBits_odd odd _)
  · intro even
    rw [← countP_dataBitsOf]
    exact charBits_parity fmt b (parityBits_even even _)
  · rw [sampledData_charBits, byteOfBits_dataBitsOf, lineByte]
  · rw [getLsbD_byteOfBits _ hj, getD_sampledData]
  · rw [charLength_eq] at length
    obtain par | par | par := par_of_legal legal
    · rw [if_pos par] at length ⊢
      rw [charGood_iff_of_no_parity (parityBits_none par _) (by omega)]
      simp [par]
    · rw [if_neg (by omega)] at length ⊢
      rw [charGood_iff_of_parity (parityBits_odd par _) (by omega), sampledData]
      simp [par]
    · rw [if_neg (by omega)] at length ⊢
      rw [charGood_iff_of_parity (parityBits_even par _) (by omega), sampledData]
      simp [par]

end Sys2Proof.Machine

/-!
What an operation does after its link test, and the queue operations (spec/40_transport_ops.md R131 to R137;
spec/60_exceptions.md R273).
-/

namespace Sys2Proof.Machine

/-- Settles O8: every instruction answers a state that is reached by moves, and no move writes a parameter. -/
theorem everyOperationCompletes : Obligations.EveryOperationCompletes := by
  intro i s
  obtain ⟨t, ran, moves⟩ := exec_moves i s
  exact ⟨t, ran, moves_cfg moves⟩

/-! ## The link test -/

theorem ite_shut_of_open {α : Type} {s : State} (opened : s.lnk.link = .opened) (refused done : α) :
    (if (!s.linkOpen) = true then refused else done) = done := by
  simp [(linkOpen_iff s).2 opened]

theorem ite_shut_of_not_open {α : Type} {s : State} (shut : s.lnk.link ≠ .opened) (refused done : α) :
    (if (!s.linkOpen) = true then refused else done) = refused := by
  simp [linkOpen_eq_false shut]

theorem permission_cfgwr_closed (a : BitVec 4) (v : Byte) : permission (.cfgwr a v) .closed ≠ .badState := by
  simp only [permission]
  split_ifs <;> simp [permissionRow]

/-- What the permission table refuses with BADSTATE while CLOSED it refuses so in every link state but OPEN
(60_exceptions.md R273). -/
theorem exec_of_not_open {i : Instr} {s : State} (needsOpen : permission i .closed = .badState)
    (shut : s.lnk.link ≠ .opened) : exec i s = .next (s.raise .badState) := by
  cases i with
  | enq | flush | poll | deq | pendw | pendr | init | recv => exact ite_shut_of_not_open shut _ _
  | send | sendOff | sendOn | sendOffCheck | sendOnCheck | sendNegateCheck | sendCheck | sendNone | sendError
  | sendReserved => exact congrArg Host.Outcome.next (ite_shut_of_not_open shut _ _)
  | cfgwr a v => exact absurd needsOpen (permission_cfgwr_closed a v)
  | reserved0 | openLink | compose | cmd2bool | rdstate | rdcsr => exact absurd needsOpen nofun
  | frameOff | frameOn | frameOffCheck | frameOnCheck | frameNegateCheck | frameCheck | fbOff | fbOn =>
    exact absurd needsOpen nofun

/-! ## ENQ and FLUSH -/

theorem enqueue_of_full (b : Byte) {s : State} (full : s.tx.txq.length = s.cfg.cap) : s.enqueue b = (s, false) := by
  simp [State.enqueue, State.txqFull, full]

theorem enqueue_of_room (b : Byte) {s : State} (room : s.tx.txq.length ≠ s.cfg.cap) :
    s.enqueue b = (s.pushTx b, true) := by
  simp [State.enqueue, State.txqFull, room]

theorem exec_enq_of_open (b : Byte) {s : State} (opened : s.lnk.link = .opened) :
    exec (.enq b) s = .next ((s.enqueue b).1.finish (OpResult.value (boolValue (s.enqueue b).2))) :=
  ite_shut_of_open opened _ _

/-- Settles O13: by whether the link is OPEN and whether `txq` has room. -/
theorem enqAppendsOrRejects : Obligations.EnqAppendsOrRejects := by
  intro s b
  refine ⟨exec_of_not_open rfl, fun opened full => ?_, fun opened room => ?_⟩
  · rw [exec_enq_of_open b opened, enqueue_of_full b full]
    rfl
  · rw [exec_enq_of_open b opened, enqueue_of_room b room]
    rfl

theorem exec_flush_of_open {s : State} (opened : s.lnk.link = .opened) :
    exec .flush s = .next (s.flushTx.finish (OpResult.value (BitVec.ofNat 16 s.flushCount))) :=
  ite_shut_of_open opened _ _

/-- Settles O14: `k` is the count the flush computes, and the flush writes the two transmit queues alone. -/
theorem flushMovesOldest : Obligations.FlushMovesOldest := by
  intro s k count
  obtain rfl : k = s.flushCount := count
  exact ⟨exec_of_not_open rfl, exec_flush_of_open⟩

/-! ## POLL and DEQ -/

theorem exec_poll_of_open {s : State} (opened : s.lnk.link = .opened) :
    exec .poll s = .next (s.pollRx.finish (OpResult.value (BitVec.ofNat 16 s.pollRx.rx.rxq.length))) :=
  ite_shut_of_open opened _ _

theorem pollRx_rxq_length (s : State) : s.pollRx.rx.rxq.length = s.rx.rxq.length + s.pollCount := by
  have staged : s.pollCount ≤ s.rx.rxStage.length := Nat.min_le_left _ _
  rw [pollRx_rx, List.length_append, List.length_take_of_le staged]

/-- Settles O15: `k` is the count the poll computes, and `rxq` is longer by it. -/
theorem pollMovesStaged : Obligations.PollMovesStaged := by
  intro s k count
  obtain rfl : k = s.pollCount := count
  refine ⟨exec_of_not_open rfl, fun opened => ?_⟩
  rw [← pollRx_rxq_length]
  exact exec_poll_of_open opened

theorem exec_deq_empty {s : State} (opened : s.lnk.link = .opened) (empty : s.rx.rxq = []) :
    exec .deq s = .next (s.raise .empty) := by
  simp only [exec, execDeq, ite_shut_of_open opened, empty]

theorem exec_deq_cons {s : State} {b : Byte} {rest : List Byte} (opened : s.lnk.link = .opened)
    (queue : s.rx.rxq = b :: rest) :
    exec .deq s = .next ((s.takeRx 1).finish (OpResult.value (BitVec.ofNat 16 b.toNat))) := by
  simp only [exec, execDeq, ite_shut_of_open opened, queue, BitVec.ofNat_toNat]

theorem takeRx_one {s : State} {b : Byte} {rest : List Byte} (queue : s.rx.rxq = b :: rest) :
    s.takeRx 1 =
      { s with
        rx := { s.rx with rxq := rest }
        hist := { s.hist with taken := s.hist.taken ++ [b] } } := by
  simp [State.takeRx, queue]

/-- Settles O16: by whether the link is OPEN and whether `rxq` holds a byte. -/
theorem deqTakesOldest : Obligations.DeqTakesOldest := by
  intro s
  refine ⟨exec_of_not_open rfl, exec_deq_empty, fun b rest opened queue => ?_⟩
  rw [exec_deq_cons opened queue, takeRx_one queue]

/-! ## PENDW and PENDR -/

theorem exec_pendw_of_open {s : State} (opened : s.lnk.link = .opened) :
    exec .pendw s = .next (s.finish (OpResult.value (BitVec.ofNat 16 s.tx.txq.length))) :=
  ite_shut_of_open opened _ _

theorem exec_pendr_of_open {s : State} (opened : s.lnk.link = .opened) :
    exec .pendr s = .next (s.finish (OpResult.value (BitVec.ofNat 16 s.rx.rxq.length))) :=
  ite_shut_of_open opened _ _

/-- Settles O17: by whether the link is OPEN. -/
theorem pendingCounts : Obligations.PendingCounts := fun _ =>
  ⟨fun shut => ⟨exec_of_not_open rfl shut, exec_of_not_open rfl shut⟩,
    fun opened => ⟨exec_pendw_of_open opened, exec_pendr_of_open opened⟩⟩

end Sys2Proof.Machine

/-!
OPEN: how it begins, and what each attempt comes to (spec/40_transport_ops.md R130; spec/10_state.md R24, R28).
-/

namespace Sys2Proof.Machine

theorem exec_openLink_not_closed {s : State} (notClosed : s.lnk.link ≠ .closed) :
    exec .openLink s = .next (s.raise .badState) :=
  if_pos notClosed

theorem exec_openLink_closed {s : State} (closed : s.lnk.link = .closed) :
    exec .openLink s =
      if s.csr.maxAttempts = 0#8 then .next (s.enterFatal .openFail)
      else .next
        { s with
          lnk := { s.lnk with link := .opening }
          sqr := { s.sqr with attempts := 1#8, seq := .openTry } } :=
  if_neg (not_not.2 closed)

/-- Settles O11: by whether the link is CLOSED and whether an attempt is allowed. -/
theorem openBegins : Obligations.OpenBegins := by
  intro s
  refine ⟨exec_openLink_not_closed, fun closed noAttempt => ?_, fun closed allowed => ?_⟩
  · rw [exec_openLink_closed closed, if_pos noAttempt]
  · rw [exec_openLink_closed closed, if_neg allowed]

theorem seqClock_openTry (d : Bool) {s : State} (trying : s.sqr.seq = .openTry) : seqClock d s = openSample d s := by
  simp only [seqClock, trying]

theorem waitEnds_openDelay {s : State} (delayed : s.sqr.seq = .openDelay) : waitEnds s = s.openAttempt := by
  simp only [waitEnds, delayed]

theorem openSample_ready (s : State) :
    openSample true s =
      State.finish (OpResult.value (BitVec.ofNat 16 s.sqr.attempts.toNat)) { s with lnk := { s.lnk with link := .opened } } := by
  rw [BitVec.ofNat_toNat]
  rfl

theorem openSample_last {s : State} (last : s.sqr.attempts = s.csr.maxAttempts) :
    openSample false s = s.enterFatal .openFail :=
  if_pos last

/-- A failed attempt before the last is followed by the delay, which at every clock that runs has some cycles. -/
theorem openSample_again {s : State} (left : s.sqr.attempts ≠ s.csr.maxAttempts) (clock : 0 < s.cfg.clkHz) :
    openSample false s = s.startWait .openDelay (2 * s.cfg.clkHz) := by
  have positive : cycOpenRetry s.cfg ≠ 0 := Nat.mul_ne_zero two_ne_zero clock.ne'
  exact (if_neg left).trans (if_neg positive)

/-- Settles O12: by what the sample and the count of attempts say, and by the last cycle of the delay as its untimed end. -/
theorem openAttemptOutcome : Obligations.OpenAttemptOutcome := by
  intro s d
  refine ⟨fun trying => ?_, fun trying last => ?_, fun trying left clock => ?_, fun delayed timer => ?_, waitEnds_openDelay⟩
  · rw [seqClock_openTry true trying, openSample_ready]
  · rw [seqClock_openTry false trying, openSample_last last]
  · rw [seqClock_openTry false trying, openSample_again left clock]
    rfl
  · exact (seqClock_of_timer_le_one d (.inr delayed) timer.le).trans (waitEnds_openDelay delayed)

end Sys2Proof.Machine

/-!
The control and status registers at the host port: CFGWR and RDCSR (spec/40_transport_ops.md R138, R139;
spec/10_state.md R30 to R39).
-/

namespace Sys2Proof.Machine

/-! ## Legal values -/

theorem baudSelLegal_iff (v : Byte) : baudSelLegal v = true ↔ v.toNat < 8 := by
  have := v.isLt
  simp only [baudSelLegal, beq_iff_eq, ← BitVec.toNat_inj, BitVec.extractLsb'_toNat, Nat.shiftRight_eq_div_pow,
    BitVec.toNat_ofNat]
  omega

theorem lineFmtLegal_iff (v : Byte) : lineFmtLegal v = true ↔ v.toNat < 32 ∧ v.toNat / 4 % 4 ≠ 3 := by
  have := v.isLt
  have bit7 : v.getLsbD 7 = decide (v.toNat / 128 % 2 = 1) := by
    rw [← BitVec.testBit_toNat, Nat.testBit_eq_decide_div_mod_eq]
  have flow : v.extractLsb' 5 2 = 0#2 ↔ v.toNat / 32 % 4 = 0 := by
    simp [← BitVec.toNat_inj, Nat.shiftRight_eq_div_pow]
  have par : v.extractLsb' 2 2 = 3#2 ↔ v.toNat / 4 % 4 = 3 := by
    rw [← BitVec.toNat_inj, parField_toNat]
    rfl
  simp only [lineFmtLegal, Bool.and_eq_true, Bool.not_eq_true', beq_iff_eq, bne_iff_ne, ne_eq, bit7, flow, par,
    decide_eq_false_iff_not]
  omega

/-! ## CFGWR -/

/-- CFGWR's tests in their order (40_transport_ops.md R138). -/
theorem exec_cfgwr (a : BitVec 4) (v : Byte) (s : State) :
    exec (.cfgwr a v) s = .next (
      if s.lnk.link = .fatal then s.raise .badState
      else if 5 ≤ a.toNat then s.raise .illOp
      else if a.toNat ≤ 2 ∧ s.lnk.link ≠ .closed then s.raise .badState
      else if csrValueLegal a v = false then s.raise .illOp
      else (s.writeCsr a v).finish (OpResult.value 0#16)) := by
  simp only [exec, execCfgwr, linkFatal_iff, csrWritable, csrFrozenUnlessClosed, Bool.not_eq_true', decide_eq_false_iff_not,
    not_le, Nat.lt_iff_add_one_le, Nat.reduceAdd, Bool.and_eq_true, decide_eq_true_eq, bne_iff_ne]
  split_ifs <;> rfl

theorem exec_cfgwr_of_closed {a : BitVec 4} (v : Byte) {s : State} (closed : s.lnk.link = .closed) (writable : a.toNat ≤ 4) :
    exec (.cfgwr a v) s = .next (
      if csrValueLegal a v = false then s.raise .illOp else (s.writeCsr a v).finish (OpResult.value 0#16)) := by
  rw [exec_cfgwr, if_neg (by simp [closed]), if_neg (by omega), if_neg (by simp [closed])]

/-- The answer wait may be written once opening has started, too (40_transport_ops.md R138 L2). -/
theorem exec_cfgwr_wait {a : BitVec 4} (v : Byte) {s : State} (notFatal : s.lnk.link ≠ .fatal) (wait : a = 3#4 ∨ a = 4#4) :
    exec (.cfgwr a v) s = .next ((s.writeCsr a v).finish (OpResult.value 0#16)) := by
  have legal : csrValueLegal a v = true := by rcases wait with rfl | rfl <;> rfl
  have index : a.toNat = 3 ∨ a.toNat = 4 := wait.imp (congrArg BitVec.toNat) (congrArg BitVec.toNat)
  rw [exec_cfgwr, if_neg notFatal, if_neg (by omega), if_neg (by omega), if_neg (by simp [legal])]

/-- Settles O9: by CFGWR's tests in their order, with the legal values of the two registers that have some. -/
theorem cfgwrWritesOrRefuses : Obligations.CfgwrWritesOrRefuses := by
  intro s a v
  refine ⟨?fatal, ?readOnly, ?frozen, ?badBaud, ?badFormat, ?baud, ?format, ?attempts, ?waitLo, ?waitHi⟩
  case fatal =>
    intro fatal
    rw [exec_cfgwr, if_pos fatal]
  case readOnly =>
    intro notFatal index
    rw [exec_cfgwr, if_neg notFatal, if_pos index]
  case frozen =>
    intro notFatal index notClosed
    rw [exec_cfgwr, if_neg notFatal, if_neg (by omega), if_pos ⟨index, notClosed⟩]
  case badBaud =>
    rintro closed rfl reserved
    have illegal : csrValueLegal 0#4 v = false :=
      Bool.eq_false_iff.2 fun legal => absurd ((baudSelLegal_iff v).1 legal) (by omega)
    rw [exec_cfgwr_of_closed v closed (by decide), if_pos illegal]
  case badFormat =>
    rintro closed rfl reserved
    have illegal : csrValueLegal 1#4 v = false :=
      Bool.eq_false_iff.2 fun legal => absurd ((lineFmtLegal_iff v).1 legal) (by omega)
    rw [exec_cfgwr_of_closed v closed (by decide), if_pos illegal]
  case baud =>
    rintro closed rfl small
    have legal : csrValueLegal 0#4 v = true := (baudSelLegal_iff v).2 small
    rw [exec_cfgwr_of_closed v closed (by decide), if_neg (by simp [legal])]
    rfl
  case format =>
    rintro closed rfl small par
    have legal : csrValueLegal 1#4 v = true := (lineFmtLegal_iff v).2 ⟨small, par⟩
    rw [exec_cfgwr_of_closed v closed (by decide), if_neg (by simp [legal])]
    rfl
  case attempts =>
    rintro closed rfl
    exact exec_cfgwr_of_closed v closed (by decide)
  case waitLo =>
    rintro notFatal rfl
    exact exec_cfgwr_wait v notFatal (.inl rfl)
  case waitHi =>
    rintro notFatal rfl
    exact exec_cfgwr_wait v notFatal (.inr rfl)

/-! ## RDCSR -/

theorem exec_rdcsr_of_some {a : BitVec 4} {v : Byte} {s : State} (reads : s.csrRead a = some v) :
    exec (.rdcsr a) s = .next (s.finish (OpResult.value (BitVec.ofNat 16 v.toNat))) := by
  simp only [exec, execRdcsr, reads, BitVec.ofNat_toNat]

theorem exec_rdcsr_of_none {a : BitVec 4} {s : State} (reserved : s.csrRead a = none) :
    exec (.rdcsr a) s = .next (s.raise .illOp) := by
  simp only [exec, execRdcsr, reserved]

/-- The indices 9 to 15 are reserved (10_state.md R30). -/
theorem csrRead_of_reserved {a : BitVec 4} (reserved : 9 ≤ a.toNat) (s : State) : s.csrRead a = none := by
  unfold State.csrRead
  split
  case h_10 => rfl
  all_goals omega

/-- `STATUS` as a number, by its fields (10_state.md R35). -/
theorem statusByte_toNat (l : LinkStatus) :
    l.statusByte.toNat =
      (linkCode l.link).toNat + 4 * l.overrun.toNat + 8 * l.lineErr.toNat + 16 * (fcauseCode l.fcause).toNat := by
  simp only [LinkStatus.statusByte, toNat_append_mul, BitVec.toNat_ofBool, BitVec.toNat_ofNat]
  omega

/-- Settles O10: by what each index reads, `STATUS` by its fields. -/
theorem rdcsrReads : Obligations.RdcsrReads := by
  intro s a
  split_ifs with h0 h1 h2 h3 h4 h5 h6 h7 h8
  · subst h0
    exact exec_rdcsr_of_some rfl
  · subst h1
    exact exec_rdcsr_of_some rfl
  · subst h2
    exact exec_rdcsr_of_some rfl
  · subst h3
    exact exec_rdcsr_of_some rfl
  · subst h4
    exact exec_rdcsr_of_some rfl
  · subst h5
    rw [exec_rdcsr_of_some (v := s.lnk.statusByte) rfl, statusByte_toNat]
    cases s.lnk.link <;> cases s.lnk.fcause <;> rfl
  · subst h6
    exact exec_rdcsr_of_some rfl
  · subst h7
    exact exec_rdcsr_of_some (v := BitVec.ofNat 8 s.cfg.channels) rfl
  · subst h8
    exact exec_rdcsr_of_some rfl
  · refine exec_rdcsr_of_none (csrRead_of_reserved ?_ s)
    simp only [← BitVec.toNat_inj, BitVec.toNat_ofNat, Nat.reducePow, Nat.reduceMod] at h0 h1 h2 h3 h4 h5 h6 h7 h8
    omega

end Sys2Proof.Machine

/-!
The line engine at the byte level: the baud-rate generator, staging, and what the line agents do while the link is OPEN
(spec/41_line_engine.md R161 to R167, R171 to R173).
-/

namespace Sys2Proof.Machine

/-! ## The baud-rate generator -/

/-- The rates of `BAUD_SEL` (10_state.md R31). -/
theorem baudRate_mem (v : Byte) : baudRate v ∈ [1200, 2400, 4800, 9600, 19200, 38400, 57600, 115200] := by
  unfold baudRate
  split <;> simp

theorem baudRate_bounds (v : Byte) : 0 < baudRate v ∧ baudRate v ≤ 115200 := by
  have listed := baudRate_mem v
  simp only [List.mem_cons, List.not_mem_nil, or_false] at listed
  omega

/-- The slowest legal clock is 16 times the fastest rate (00_scope.md R6). -/
theorem sixteen_le_divisor {c : Config} (legal : c.legal) (v : Byte) : 16 ≤ divisor c.clkHz (baudRate v) := by
  obtain ⟨-, -, -, -, -, -, -, -, clock, -⟩ := legal
  obtain ⟨positive, rate⟩ := baudRate_bounds v
  rw [divisor, Nat.le_div_iff_mul_le positive]
  omega

theorem sixteen_le_bitCycles {s : State} (legal : s.cfg.legal) : 16 ≤ s.bitCycles := sixteen_le_divisor legal _

/-- Settles O53: the bound by the slowest clock and the fastest rate, the table by evaluation. -/
theorem divisorValues : Obligations.DivisorValues := ⟨fun _ v legal => sixteen_le_divisor legal v, by decide⟩

/-! ## A step of an agent -/

theorem step_of_react_done {s t : State} {n : Input} {rest : List Input} (taken : s.env.schedule = n :: rest)
    (h : react n { s with env := { s.env with schedule := rest } } = .done t) : step s = .next t :=
  step_of_done ((fetch_cons taken).trans h)

/-- Settles O36: an agent's input is answered by the agent's function alone. -/
theorem stepRunsAgents : Obligations.StepRunsAgents := by
  rintro s n rest u taken rfl
  refine ⟨?_, fun x => ?_, ?_, ?_, fun b g => ?_, fun d => ?_, ?_⟩
  all_goals
    rintro rfl
    exact step_of_react_done taken rfl

/-! ## Transmit -/

section LinkOpen

variable {s : State} (opened : s.lnk.link = .opened)
include opened

theorem txStartStep_of_staged {b : Byte} {rest : List Byte} (idle : s.tx.txSh = .idle) (staged : s.tx.txStage = b :: rest) :
    txStartStep s =
      { s with tx := { s.tx with txStage := rest, txSh := .busy b (charBits s.csr.lineFmt b) 0 s.bitCycles } } := by
  simp [txStartStep, (linkOpen_iff s).2 opened, idle, staged]

theorem txDoneStep_of_busy {b : Byte} {c : List Bool} {k p : Nat} (busy : s.tx.txSh = .busy b c k p) :
    txDoneStep s =
      { s with
        tx := { s.tx with txSh := .idle }
        hist := { s.hist with lineOut := s.hist.lineOut ++ [b] } } := by
  simp [txDoneStep, (linkOpen_iff s).2 opened, busy]

theorem txd_of_busy {b : Byte} {c : List Bool} {k p : Nat} (busy : s.tx.txSh = .busy b c k p) : s.txd = c.getD k true := by
  simp [State.txd, (linkOpen_iff s).2 opened, busy]

end LinkOpen

theorem txd_of_idle {s : State} (idle : s.tx.txSh = .idle) : s.txd = true := by simp [State.txd, idle]

theorem txd_of_not_open {s : State} (shut : s.lnk.link ≠ .opened) : s.txd = true := by
  simp [State.txd, linkOpen_eq_false shut]

/-- Settles O58: by what each line agent does on an OPEN link and on any other. -/
theorem lineQuietUnlessOpen : Obligations.LineQuietUnlessOpen := by
  intro s b x
  refine ⟨?level, fun shut => ?gated, fun rest opened idle staged => txStartStep_of_staged opened idle staged,
    fun c k p opened busy => txDoneStep_of_busy opened busy⟩
  case level =>
    rintro (idle | shut)
    · exact txd_of_idle idle
    · exact txd_of_not_open shut
  case gated =>
    exact ⟨txClock_of_not_open shut, rxClock_of_not_open shut x, txStartStep_of_not_open shut, txDoneStep_of_not_open shut,
      deliverByte_of_not_open shut b x⟩

/-! ## Staging -/

theorem deliverByte_bad (b : Byte) {s : State} (opened : s.lnk.link = .opened) :
    deliverByte b false s = dropByte (s.recordIn b) := by
  simp [deliverByte, opened]

theorem deliverByte_good (b : Byte) {s : State} (opened : s.lnk.link = .opened) :
    deliverByte b true s = stageByte (lineByte s.csr.lineFmt b) (s.recordIn b) := by
  simp [deliverByte, opened]

theorem stageByte_of_room (b : Byte) {s : State} (room : s.rx.rxStage.length < s.cfg.rxsDepth) :
    stageByte b s =
      { s with
        rx := { s.rx with rxStage := s.rx.rxStage ++ [b] }
        hist := { s.hist with accepted := s.hist.accepted ++ [b] } } := by
  simp [stageByte, room.ne]

theorem stageByte_of_full (b : Byte) {s : State} {old : Byte} {rest : List Byte} (staged : s.rx.rxStage = old :: rest)
    (full : s.rx.rxStage.length = s.cfg.rxsDepth) :
    stageByte b s =
      { s with
        rx := { s.rx with rxStage := rest ++ [b] }
        lnk := { s.lnk with overrun := true }
        hist := { s.hist with accepted := s.hist.accepted ++ [b], lost := s.hist.lost ++ [old] } } := by
  rw [stageByte, if_pos full, staged]
  rfl

/-- Settles O57: a good byte by the two cases of staging, a bad one by `dropByte`. -/
theorem overrunKeepsNewest : Obligations.OverrunKeepsNewest := by
  rintro s b x opened rfl
  rw [← dataBits_eq]
  refine ⟨fun eight => ?whole, fun room => ?room, fun old rest staged full => ?full, deliverByte_bad b opened⟩
  case whole => exact lineByte_of_eight (by rw [dataBits_eq, eight]) b
  case room =>
    rw [deliverByte_good b opened]
    exact stageByte_of_room (s := s.recordIn b) _ room
  case full =>
    rw [deliverByte_good b opened]
    exact stageByte_of_full (s := s.recordIn b) _ staged full

/-! ## Reception and the sequencer -/

/-- The sequencer's registers, the receive shifter and the sample flops set: what a delivery neither reads nor writes. -/
def State.setUnread (q : Sequencer) (r : RxPath) (s : State) : State :=
  { s with sqr := q, rx := { r with rxq := s.rx.rxq, rxStage := s.rx.rxStage } }

theorem stageByte_setUnread (q : Sequencer) (r : RxPath) (b : Byte) (s : State) :
    stageByte b (s.setUnread q r) = (stageByte b s).setUnread q r := by
  rw [stageByte, stageByte, apply_ite (State.setUnread q r)]
  rfl

theorem deliverByte_setUnread (q : Sequencer) (r : RxPath) (b : Byte) (good : Bool) (s : State) :
    deliverByte b good (s.setUnread q r) = (deliverByte b good s).setUnread q r := by
  have staged := stageByte_setUnread q r (lineByte s.csr.lineFmt b) (s.recordIn b)
  rw [deliverByte, deliverByte, apply_ite (State.setUnread q r), apply_ite (State.setUnread q r), ← staged]
  rfl

theorem deliverByte_keeps_unread (b : Byte) (good : Bool) (s : State) :
    deliverByte b good s = (deliverByte b good s).setUnread s.sqr s.rx :=
  deliverByte_setUnread s.sqr s.rx b good s

/-- The sequencer's registers and the synchroniser's flops set: what a sample, once taken, neither reads nor writes. -/
def State.setAside (q : Sequencer) (x y : Bool) (s : State) : State :=
  { s with sqr := q, rx := { s.rx with rxSync1 := x, rxSync2 := y } }

section Aside

variable (q : Sequencer) (x y : Bool) (s : State)

@[simp] theorem setAside_rxSh : (s.setAside q x y).rx.rxSh = s.rx.rxSh := rfl
@[simp] theorem setAside_rxPrev : (s.setAside q x y).rx.rxPrev = s.rx.rxPrev := rfl

theorem deliverByte_setAside (b : Byte) (good : Bool) :
    deliverByte b good (s.setAside q x y) = (deliverByte b good s).setAside q x y :=
  (deliverByte_setUnread q { s.rx with rxSync1 := x, rxSync2 := y } b good s).trans
    (congrArg (State.setAside q x y) (deliverByte_keeps_unread b good s)).symm

theorem sampleBit_setAside (bits : List Bool) (k : Nat) (sample : Bool) :
    sampleBit bits k sample (s.setAside q x y) = (sampleBit bits k sample s).setAside q x y := by
  have delivered := deliverByte_setAside q x y (s.setRxSh .idle)
    (byteOfBits (sampledData s.csr.lineFmt (bits ++ [sample]))) (charGood s.csr.lineFmt (bits ++ [sample]))
  simp only [sampleBit, apply_ite (State.setAside q x y), ← delivered]
  rfl

theorem receiveSample_setAside (sample : Bool) :
    receiveSample sample (s.setAside q x y) = (receiveSample sample s).setAside q x y := by
  cases sh : s.rx.rxSh with
  | idle =>
    simp only [receiveSample, setAside_rxSh, setAside_rxPrev, sh, apply_ite (State.setAside q x y)]
    rfl
  | busy bits k p =>
    simp only [receiveSample, setAside_rxSh, sh, sampleBit_setAside, apply_ite (State.setAside q x y)]
    rfl

end Aside

/-- The sequencer's registers set. -/
def State.setSqr (q : Sequencer) (s : State) : State := { s with sqr := q }

theorem deliverByte_setSqr (q : Sequencer) (b : Byte) (good : Bool) (s : State) :
    deliverByte b good (s.setSqr q) = (deliverByte b good s).setSqr q :=
  (deliverByte_setUnread q s.rx b good s).trans (congrArg (State.setSqr q) (deliverByte_keeps_unread b good s)).symm

theorem receiveSample_keeps_aside (sample : Bool) (s : State) :
    receiveSample sample s = (receiveSample sample s).setAside s.sqr s.rx.rxSync1 s.rx.rxSync2 :=
  receiveSample_setAside s.sqr s.rx.rxSync1 s.rx.rxSync2 s sample

theorem receiveSample_setSqr (q : Sequencer) (sample : Bool) (s : State) :
    receiveSample sample (s.setSqr q) = (receiveSample sample s).setSqr q :=
  (receiveSample_setAside q s.rx.rxSync1 s.rx.rxSync2 s sample).trans
    (congrArg (State.setSqr q) (receiveSample_keeps_aside sample s)).symm

theorem rxClock_setSqr (q : Sequencer) (x : Bool) (s : State) : rxClock x (s.setSqr q) = (rxClock x s).setSqr q := by
  have sampled := receiveSample_setSqr q s.rx.rxSync2 s
  rw [rxClock, rxClock, apply_ite (State.setSqr q)]
  exact congrArg (fun t => if s.linkOpen then State.shiftSync x t else s.setSqr q) sampled

/-- Settles O59: no part of reception reads or writes the sequencer's registers. -/
theorem receptionIgnoresSequencer : Obligations.ReceptionIgnoresSequencer := fun s q b x =>
  ⟨rxClock_setSqr q x s, deliverByte_setSqr q b x s⟩

end Sys2Proof.Machine

/-!
The queues and the shifters before the link has been OPEN (spec/41_line_engine.md R162; spec/40_transport_ops.md R130).
-/

namespace Sys2Proof.Machine

/-- The link has not been OPEN since reset (10_state.md R41). -/
abbrev State.notYetOpen (s : State) : Prop := s.lnk.link = .closed ∨ s.lnk.link = .opening

theorem not_open_of_notYetOpen {s : State} (early : s.notYetOpen) : s.lnk.link ≠ .opened := by
  rcases early with closed | opening
  · simp [closed]
  · simp [opening]

/-- What leads to a link that has not been OPEN begins with such a link and leaves the queues and the shifters alone. -/
structure LinePathsKept (s t : State) : Prop where
  early : s.notYetOpen
  tx : t.tx = s.tx
  rx : t.rx = s.rx

theorem LinePathsKept.of_lnk {s t : State} (early : t.notYetOpen) (lnk : t.lnk = s.lnk) (tx : t.tx = s.tx) (rx : t.rx = s.rx) :
    LinePathsKept s t :=
  ⟨by rwa [State.notYetOpen, ← lnk], tx, rx⟩

/-! ## Instructions -/

theorem commandFrameOp_of_not_open (f : Frame) {s : State} (shut : s.lnk.link ≠ .opened) :
    commandFrameOp f s = s.raise .badState :=
  ite_shut_of_not_open shut _ _

theorem feedbackFrameOp_of_not_open (f : Frame) {s : State} (shut : s.lnk.link ≠ .opened) :
    feedbackFrameOp f s = s.raise .badState :=
  ite_shut_of_not_open shut _ _

/-- Every operation on the queues is refused on a link that is not OPEN, and the others have no access to them. -/
theorem exec_paths_of_not_open (i : Instr) {s : State} (shut : s.lnk.link ≠ .opened) :
    ∃ t, exec i s = .next t ∧ t.tx = s.tx ∧ t.rx = s.rx := by
  cases i with
  | enq | flush | poll | deq | pendw | pendr | init | recv => exact ⟨_, exec_of_not_open rfl shut, rfl, rfl⟩
  | send | sendOff | sendOn | sendOffCheck | sendOnCheck | sendNegateCheck | sendCheck | sendNone | sendError
  | sendReserved => exact ⟨_, exec_of_not_open rfl shut, rfl, rfl⟩
  | frameOff | frameOn | frameOffCheck | frameOnCheck | frameNegateCheck | frameCheck =>
    exact ⟨_, congrArg Host.Outcome.next (commandFrameOp_of_not_open _ shut), rfl, rfl⟩
  | fbOff | fbOn => exact ⟨_, congrArg Host.Outcome.next (feedbackFrameOp_of_not_open _ shut), rfl, rfl⟩
  | reserved0 | cfgwr | openLink | compose | cmd2bool | rdstate | rdcsr =>
    simp only [exec, execReserved0, execCfgwr, execOpenLink, execCompose, execCmd2bool, execRdstate, execRdcsr]
    repeat' split
    all_goals exact ⟨_, rfl, rfl, rfl⟩

theorem ExecEffect.early {i : Instr} {s t : State} (h : ExecEffect i s t) (early : t.notYetOpen) : s.notYetOpen := by
  cases h with
  | data op _ => rwa [State.notYetOpen, ← op.lnk]
  | opening closed _ => exact .inl closed
  | fatal => simp [State.notYetOpen] at early

theorem exec_linePathsKept {i : Instr} {s t : State} (ran : exec i s = .next t) (early : t.notYetOpen) : LinePathsKept s t := by
  have before : s.notYetOpen := (ExecEffect.of_exec ran).early early
  obtain ⟨u, hu, tx, rx⟩ := exec_paths_of_not_open i (not_open_of_notYetOpen before)
  obtain rfl : u = t := Host.Outcome.next.inj (hu.symm.trans ran)
  exact ⟨before, tx, rx⟩

/-! ## A step -/

/-- A wait for an answer happens on an OPEN link, so its end leads to no link that has not been OPEN. -/
theorem SeqEffect.linePathsKept {s t : State} (h : SeqEffect s t) (agrees : s.sequencerAgrees) (early : t.notYetOpen) :
    LinePathsKept s t := by
  cases h with
  | rest | counted | delayed | attempted => exact .of_lnk early rfl rfl rfl
  | opened => simp [State.notYetOpen] at early
  | failed => simp [State.notYetOpen] at early
  | answered waiting =>
    have opened : s.lnk.link = .opened := ((sequencerAgrees_iff s).1 agrees).2 waiting
    simp [State.notYetOpen, (dataOp_answerWaitEnds s).lnk, opened] at early

theorem Acts.linePathsKept {n : Input} {s t : State} (h : Acts n s t) (agrees : s.sequencerAgrees) (early : t.notYetOpen) :
    LinePathsKept s t := by
  cases h with
  | line writes gated =>
    have before : s.notYetOpen := by
      obtain ⟨_, _, _, _, _, rfl⟩ := writes
      exact early
    obtain rfl := gated (not_open_of_notYetOpen before)
    exact ⟨before, rfl, rfl⟩
  | clock d _ => exact (seqEffect_seqClock d s).linePathsKept agrees early
  | wait _ => exact (seqEffect_waitEnds s).linePathsKept agrees early
  | notTaken => exact ⟨early, rfl, rfl⟩
  | run c i _ _ _ ran => exact exec_linePathsKept ran early
  | window w e _ _ =>
    have before : s.notYetOpen := by rwa [State.notYetOpen, ← (dataOp_feedbackFrameOp (Frame.ofWord w) s).lnk]
    rw [feedbackFrameOp_of_not_open _ (not_open_of_notYetOpen before)]
    exact ⟨before, rfl, rfl⟩

theorem step_linePathsKept {s t : State} (agrees : s.sequencerAgrees) (hr : s.nextInput ≠ .reset) (h : step s = .next t)
    (early : t.notYetOpen) : LinePathsKept s t := by
  obtain ⟨u, v, ⟨_, _, _, _, rfl⟩, act, ⟨_, _, _, _, rfl⟩⟩ := step_acts hr h
  obtain ⟨before, tx, rx⟩ := act.linePathsKept agrees early
  exact ⟨before, tx, rx⟩

/-- Settles O48: a reset empties the queues, and no other step that leaves the link short of OPEN touches them. -/
theorem stepKeepsQuietUntilOpen : Obligations.StepKeepsQuietUntilOpen := by
  intro s t agrees quiet h early
  rcases step_moves h with ⟨-, rfl⟩ | ⟨notReset, -⟩
  · exact ⟨rfl, rfl, rfl, rfl, rfl, rfl⟩
  · obtain ⟨before, tx, rx⟩ := step_linePathsKept agrees notReset h early
    rw [tx, rx]
    exact quiet before

end Sys2Proof.Machine

/-!
The cycles of a character on `txd` (spec/41_line_engine.md R164, R165).
-/

namespace Sys2Proof.Machine

/-! ## One cycle -/

section Cycle

variable {s : State} (b : Byte) (c : List Bool) (k p : Nat) (opened : s.lnk.link = .opened)
include opened

theorem txClock_of_idle (idle : s.tx.txSh = .idle) : txClock s = txStartStep s := by
  simp [txClock, (linkOpen_iff s).2 opened, idle]

theorem txClock_shiftTo :
    txClock (s.shiftTo b c k p) =
      if 1 < p then s.shiftTo b c k (p - 1)
      else if k + 1 < c.length then s.shiftTo b c (k + 1) s.bitCycles
      else txStartStep (txDoneStep (s.shiftTo b c k p)) := by
  have running : (s.shiftTo b c k p).linkOpen = true := (linkOpen_iff _).2 opened
  simp only [txClock, running, shiftTo_tx]
  rfl

theorem txDoneStep_shiftTo :
    txDoneStep (s.shiftTo b c k p) =
      { s with
        tx := { s.tx with txSh := .idle }
        hist := { s.hist with lineOut := s.hist.lineOut ++ [b] } } :=
  txDoneStep_of_busy (s := s.shiftTo b c k p) opened rfl

theorem txd_shiftTo : (s.shiftTo b c k p).txd = c.getD k true := txd_of_busy (s := s.shiftTo b c k p) opened rfl

end Cycle

/-! ## A character -/

/-- The state `j` cycles after bit 0 of the character `c` of byte `b` has gone on `txd`. -/
def State.afterCycles (b : Byte) (c : List Bool) (j : Nat) (s : State) : State :=
  s.shiftTo b c (j / s.bitCycles) (s.bitCycles - j % s.bitCycles)

theorem afterCycles_of_bit (b : Byte) (c : List Bool) (k : Nat) {i : Nat} {s : State} (hi : i < s.bitCycles) :
    s.afterCycles b c (k * s.bitCycles + i) = s.shiftTo b c k (s.bitCycles - i) := by
  have positive : 0 < s.bitCycles := by omega
  rw [State.afterCycles, Nat.add_comm, Nat.add_mul_div_right _ _ positive, Nat.add_mul_mod_self_right,
    Nat.div_eq_of_lt hi, Nat.mod_eq_of_lt hi, Nat.zero_add]

section Character

variable {s : State} (b : Byte) (c : List Bool) (opened : s.lnk.link = .opened) (positive : 0 < s.bitCycles)
include opened positive

/-- One cycle within a character: within a bit `p` counts down, at its end the next bit begins. -/
theorem txClock_afterCycles {j : Nat} (hj : j + 1 < c.length * s.bitCycles) :
    txClock (s.afterCycles b c j) = s.afterCycles b c (j + 1) := by
  obtain ⟨k, i, hi, rfl⟩ : ∃ k i, i < s.bitCycles ∧ j = k * s.bitCycles + i :=
    ⟨j / s.bitCycles, j % s.bitCycles, Nat.mod_lt _ positive, (Nat.div_add_mod' _ _).symm⟩
  rw [afterCycles_of_bit b c k hi]
  by_cases left : i + 1 < s.bitCycles
  · rw [txClock_shiftTo b c _ _ opened, if_pos (by omega), Nat.add_assoc, afterCycles_of_bit b c k left, Nat.sub_add_eq]
  · have one : s.bitCycles - i = 1 := by omega
    have next : k * s.bitCycles + i + 1 = (k + 1) * s.bitCycles + 0 := by
      rw [Nat.succ_mul]
      omega
    have more : k + 1 < c.length := Nat.lt_of_mul_lt_mul_right (next ▸ hj)
    rw [next, afterCycles_of_bit b c (k + 1) positive, one, txClock_shiftTo b c _ _ opened, if_neg (by decide),
      if_pos more, Nat.sub_zero]

theorem iterate_txClock_within {j : Nat} (hj : j < c.length * s.bitCycles) :
    txClock^[j] (s.shiftTo b c 0 s.bitCycles) = s.afterCycles b c j := by
  induction j with
  | zero => rw [State.afterCycles, Nat.zero_div, Nat.zero_mod, Nat.sub_zero, Function.iterate_zero_apply]
  | succ j ih => rw [Function.iterate_succ_apply', ih (by omega), txClock_afterCycles b c opened positive hj]

/-- TxDone, and the next TxStart, come in the cycle after the last one of the last bit (41_line_engine.md R165). -/
theorem iterate_txClock_whole (bits : 0 < c.length) :
    txClock^[c.length * s.bitCycles] (s.shiftTo b c 0 s.bitCycles) =
      txStartStep (txDoneStep (s.shiftTo b c (c.length - 1) 1)) := by
  obtain ⟨k, length⟩ : ∃ k, c.length = k + 1 := Nat.exists_eq_add_one.2 bits
  have last : c.length * s.bitCycles = k * s.bitCycles + (s.bitCycles - 1) + 1 := by
    rw [length, Nat.succ_mul]
    omega
  have one : s.bitCycles - (s.bitCycles - 1) = 1 := by omega
  rw [last, Function.iterate_succ_apply', iterate_txClock_within b c opened positive (by omega),
    afterCycles_of_bit b c k (by omega), one, txClock_shiftTo b c _ _ opened, if_neg (by decide), if_neg (by omega), length,
    Nat.add_sub_cancel]

end Character

/-! ## From TxStart to TxDone -/

/-- `tx_stage` set. -/
def State.setTxStage (q : List Byte) (s : State) : State := { s with tx := { s.tx with txStage := q } }

/-- The state right after TxDone of byte `b`, with `rest` still staged. -/
def State.characterSent (b : Byte) (rest : List Byte) (s : State) : State :=
  { s with
    tx := { s.tx with txStage := rest, txSh := .idle }
    hist := { s.hist with lineOut := s.hist.lineOut ++ [b] } }

theorem txStartStep_lineOut (s : State) : (txStartStep s).hist.lineOut = s.hist.lineOut := by
  unfold txStartStep
  split <;> rfl

theorem txStartStep_of_nothing_staged {s : State} (none : s.tx.txStage = []) : txStartStep s = s := by
  simp [txStartStep, none]

section Staged

variable {s : State} {b : Byte} {rest : List Byte} (opened : s.lnk.link = .opened) (positive : 0 < s.bitCycles)
  (idle : s.tx.txSh = .idle) (staged : s.tx.txStage = b :: rest)
include opened positive idle staged

theorem iterate_txClock_character {j : Nat} (hj : j < (charBits s.csr.lineFmt b).length * s.bitCycles) :
    txClock^[j + 1] s = (s.setTxStage rest).afterCycles b (charBits s.csr.lineFmt b) j := by
  rw [Function.iterate_succ_apply, txClock_of_idle opened idle, txStartStep_of_staged opened idle staged]
  exact iterate_txClock_within (s := s.setTxStage rest) b _ opened positive hj

theorem iterate_txClock_done :
    txClock^[(charBits s.csr.lineFmt b).length * s.bitCycles + 1] s = txStartStep (s.characterSent b rest) := by
  have bits : 0 < (charBits s.csr.lineFmt b).length := by simp [charBits]
  have whole := iterate_txClock_whole (s := s.setTxStage rest) b _ opened positive bits
  rw [txDoneStep_shiftTo b _ _ _ (s := s.setTxStage rest) opened] at whole
  rw [Function.iterate_succ_apply, txClock_of_idle opened idle, txStartStep_of_staged opened idle staged]
  exact whole

end Staged

/-- Settles O54: from TxStart on the shifter is where the number of cycles puts it, until TxDone and the next TxStart. -/
theorem characterTiming : Obligations.CharacterTiming := by
  rintro s b rest c d legal opened idle staged rfl rfl
  have positive : 0 < s.bitCycles := lt_of_lt_of_le (by decide) (sixteen_le_bitCycles legal)
  rw [iterate_txClock_done opened positive idle staged]
  refine ⟨fun j hj => ?within, txStartStep_lineOut _, fun none => ?last, fun b' rest' more => ?next⟩
  case within =>
    rw [iterate_txClock_character opened positive idle staged hj]
    exact ⟨txd_shiftTo (s := s.setTxStage rest) b _ _ _ opened, rfl, rfl⟩
  case last =>
    subst none
    rw [txStartStep_of_nothing_staged rfl]
    rfl
  case next =>
    rw [txStartStep_of_staged (s := s.characterSent b rest) opened rfl more]
    rfl

end Sys2Proof.Machine

/-!
The bit-level receiver on a waveform (spec/41_line_engine.md R168 to R170).
-/

namespace Sys2Proof.Machine

/-! ## One sample -/

/-- The receive shifter and the previous sample set. -/
def State.listening (r : RxShifter) (prev : Bool) (s : State) : State :=
  { s with rx := { s.rx with rxSh := r, rxPrev := prev } }

/-- The synchroniser's flops set. -/
def State.setFlops (x y : Bool) (s : State) : State := { s with rx := { s.rx with rxSync1 := x, rxSync2 := y } }

/-- One clock cycle of `RxLine` behind the synchroniser: a sample is taken and remembered. -/
def hear (sample : Bool) (s : State) : State :=
  { receiveSample sample s with rx := { (receiveSample sample s).rx with rxPrev := sample } }

theorem deliverByte_listening (r : RxShifter) (prev : Bool) (b : Byte) (good : Bool) (s : State) :
    deliverByte b good (s.listening r prev) = (deliverByte b good s).listening r prev :=
  (deliverByte_setUnread s.sqr { s.rx with rxSh := r, rxPrev := prev } b good s).trans
    (congrArg (State.listening r prev) (deliverByte_keeps_unread b good s)).symm

section Sample

variable (s : State) (bits : List Bool) (k : Nat) (x y : Bool)

theorem hear_steady : hear x (s.listening .idle x) = s.listening .idle x := by
  cases x <;> rfl

/-- A 0 after a 1 is a start edge (41_line_engine.md R168). -/
theorem hear_edge : hear false (s.listening .idle true) = s.listening (.busy [] 0 (s.bitCycles / 2)) false := rfl

theorem hear_counts {p : Nat} (left : 0 < p) :
    hear x (s.listening (.busy bits k (p + 1)) y) = s.listening (.busy bits k p) x := by
  have counts : receiveSample x (s.listening (.busy bits k (p + 1)) y) = s.listening (.busy bits k p) y :=
    if_pos (Nat.succ_lt_succ left)
  rw [hear, counts]
  rfl

theorem hear_glitch : hear true (s.listening (.busy [] 0 1) y) = s.listening .idle true := rfl

theorem hear_start : hear false (s.listening (.busy [] 0 1) y) = s.listening (.busy [] 1 s.bitCycles) false := rfl

theorem hear_bit (started : 1 ≤ k) (more : k + 1 < charLength s.csr.lineFmt) :
    hear x (s.listening (.busy bits k 1) y) = s.listening (.busy (bits ++ [x]) (k + 1) s.bitCycles) x := by
  have sampled : receiveSample x (s.listening (.busy bits k 1) y) =
      s.listening (.busy (bits ++ [x]) (k + 1) s.bitCycles) y :=
    (if_neg (Nat.one_le_iff_ne_zero.1 started)).trans (if_pos more)
  rw [hear, sampled]
  rfl

theorem hear_last_bit (started : 1 ≤ k) (last : k + 1 = charLength s.csr.lineFmt) :
    hear x (s.listening (.busy bits k 1) y) =
      (deliverByte (byteOfBits (sampledData s.csr.lineFmt (bits ++ [x]))) (charGood s.csr.lineFmt (bits ++ [x])) s).listening
        .idle x := by
  have sampled : receiveSample x (s.listening (.busy bits k 1) y) =
      deliverByte (byteOfBits (sampledData s.csr.lineFmt (bits ++ [x]))) (charGood s.csr.lineFmt (bits ++ [x]))
        (s.listening .idle y) :=
    (if_neg (Nat.one_le_iff_ne_zero.1 started)).trans (if_neg last.not_lt)
  rw [hear, sampled, deliverByte_listening]
  rfl

end Sample

/-! ## The synchroniser -/

/-- A sequence of samples. -/
def hears (samples : List Bool) (s : State) : State := samples.foldl (fun t x => hear x t) s

@[simp] theorem hears_nil (s : State) : hears [] s = s := rfl

@[simp] theorem hears_cons (x : Bool) (xs : List Bool) (s : State) : hears (x :: xs) s = hears xs (hear x s) := rfl

@[simp] theorem hears_append (xs ys : List Bool) (s : State) : hears (xs ++ ys) s = hears ys (hears xs s) :=
  List.foldl_append

theorem receiveSample_setFlops (sample x y : Bool) (s : State) :
    receiveSample sample (s.setFlops x y) = (receiveSample sample s).setFlops x y :=
  (receiveSample_setAside s.sqr x y s sample).trans
    (congrArg (State.setFlops x y) (receiveSample_keeps_aside sample s)).symm

theorem hear_link (x : Bool) (s : State) : (hear x s).lnk.link = s.lnk.link := by
  obtain ⟨_, _, _, _, _, h⟩ := lineStep_receiveSample x s
  rw [hear, h]

theorem rxClock_setFlops (rxd x y : Bool) {s : State} (opened : s.lnk.link = .opened) :
    rxClock rxd (s.setFlops x y) = (hear y s).setFlops rxd x := by
  have running : (s.setFlops x y).linkOpen = true := (linkOpen_iff _).2 opened
  exact (if_pos running).trans (congrArg (State.shiftSync rxd) (receiveSample_setFlops y x y s))

/-- The receiver runs two samples behind the line: what it has taken is the line's levels but for the two still in the flops
(41_line_engine.md R168). -/
theorem foldl_rxClock (taken levels : List Bool) {x y x' y' : Bool} {s : State} (opened : s.lnk.link = .opened)
    (delayed : y :: x :: levels = taken ++ [y', x']) :
    levels.foldl (fun t rxd => rxClock rxd t) (s.setFlops x y) = (hears taken s).setFlops x' y' := by
  induction levels generalizing taken x y s with
  | nil =>
    obtain ⟨rfl, rfl, rfl⟩ : taken = [] ∧ y = y' ∧ x = x' := by
      cases taken with
      | nil => simpa using delayed
      | cons _ rest => cases rest <;> simp at delayed
    rfl
  | cons rxd levels ih =>
    cases taken with
    | nil => simp at delayed
    | cons z taken =>
      obtain ⟨rfl, later⟩ := List.cons.inj delayed
      rw [List.foldl_cons, rxClock_setFlops _ _ _ opened, hears_cons]
      exact ih taken ((hear_link _ s).trans opened) later

/-! ## A level held -/

theorem hears_steady (n : Nat) (x : Bool) (s : State) :
    hears (List.replicate n x) (s.listening .idle x) = s.listening .idle x := by
  induction n with
  | zero => rfl
  | succ n ih => rw [List.replicate_succ, hears_cons, hear_steady, ih]

/-- `t` is `s` with the receiver `p` cycles before the sample of line bit `k`, the bits before it sampled as `bits`. -/
def Receiving (s : State) (bits : List Bool) (k p : Nat) (t : State) : Prop :=
  ∃ prev, t = s.listening (.busy bits k p) prev

section Receiving

variable {s t : State} {bits : List Bool} {k : Nat}

theorem hears_counts (n : Nat) (x : Bool) {p : Nat} (left : 0 < p) (h : Receiving s bits k (n + p) t) :
    Receiving s bits k p (hears (List.replicate n x) t) := by
  induction n generalizing t with
  | zero => rwa [Nat.zero_add] at h
  | succ n ih =>
    obtain ⟨y, rfl⟩ := h
    refine ih ⟨x, ?_⟩
    rw [Nat.succ_add]
    exact hear_counts s bits k x y (by omega)

/-- Between a sample and the next bit's begin the second half of the bit's cycles pass. -/
theorem hears_second_half (x : Bool) (long : 16 ≤ s.bitCycles) (h : Receiving s bits k s.bitCycles t) :
    Receiving s bits k (s.bitCycles / 2 + 1) (hears (List.replicate (s.bitCycles - s.bitCycles / 2 - 1) x) t) := by
  refine hears_counts _ x (by omega) ?_
  rwa [show s.bitCycles - s.bitCycles / 2 - 1 + (s.bitCycles / 2 + 1) = s.bitCycles by omega]

/-- A bit's cycles: those before its sample, the sample, those after it. -/
theorem replicate_bitCycles (x : Bool) (long : 16 ≤ s.bitCycles) :
    List.replicate s.bitCycles x =
      List.replicate (s.bitCycles / 2) x ++ x :: List.replicate (s.bitCycles - s.bitCycles / 2 - 1) x := by
  rw [← List.replicate_succ, ← List.replicate_add]
  congr 1
  omega

theorem hears_bit (x : Bool) (long : 16 ≤ s.bitCycles) (started : 1 ≤ k) (more : k + 1 < charLength s.csr.lineFmt)
    (h : Receiving s bits k (s.bitCycles / 2 + 1) t) :
    Receiving s (bits ++ [x]) (k + 1) (s.bitCycles / 2 + 1) (hears (List.replicate s.bitCycles x) t) := by
  obtain ⟨y, atSample⟩ := hears_counts (s.bitCycles / 2) x Nat.one_pos h
  rw [replicate_bitCycles x long, hears_append, atSample, hears_cons, hear_bit s bits k x y started more]
  exact hears_second_half x long ⟨x, rfl⟩

/-- The data bits, and what follows them up to the last stop bit. -/
theorem hears_bits (xs : List Bool) (long : 16 ≤ s.bitCycles) (started : 1 ≤ k)
    (more : k + xs.length < charLength s.csr.lineFmt) (h : Receiving s bits k (s.bitCycles / 2 + 1) t) :
    Receiving s (bits ++ xs) (k + xs.length) (s.bitCycles / 2 + 1)
      (hears (xs.flatMap (List.replicate s.bitCycles)) t) := by
  induction xs generalizing bits k t with
  | nil => simpa using h
  | cons x xs ih =>
    rw [List.length_cons] at more
    have rest := ih (by omega) (by omega) (hears_bit x long started (by omega) h)
    rwa [List.append_assoc, Nat.add_assoc, Nat.add_comm 1, ← hears_append] at rest

/-- After the last sample the character is judged, and the receiver stays idle at the level of the last stop bit. -/
theorem hears_last_bit (m : Nat) (x : Bool) (started : 1 ≤ k) (last : k + 1 = charLength s.csr.lineFmt)
    (h : Receiving s bits k (s.bitCycles / 2 + 1) t) :
    hears (List.replicate (s.bitCycles / 2) x ++ x :: List.replicate m x) t =
      (deliverByte (byteOfBits (sampledData s.csr.lineFmt (bits ++ [x]))) (charGood s.csr.lineFmt (bits ++ [x])) s).listening
        .idle x := by
  obtain ⟨y, atSample⟩ := hears_counts (s.bitCycles / 2) x Nat.one_pos h
  rw [hears_append, atSample, hears_cons, hear_last_bit s bits k x y started last, hears_steady]

end Receiving

/-! ## The start bit -/

theorem hears_start_bit {s : State} (long : 16 ≤ s.bitCycles) :
    Receiving s [] 1 (s.bitCycles / 2 + 1) (hears (List.replicate s.bitCycles false) (s.listening .idle true)) := by
  obtain ⟨n, half⟩ : ∃ n, s.bitCycles / 2 = n + 1 := Nat.exists_eq_add_one.2 (by omega)
  have edge : Receiving s [] 0 (n + 1) (hear false (s.listening .idle true)) := ⟨false, by rw [hear_edge, half]⟩
  obtain ⟨y, atSample⟩ := hears_counts n false Nat.one_pos edge
  rw [replicate_bitCycles false long, half, List.replicate_succ, List.cons_append, hears_cons, hears_append, atSample,
    hears_cons, hear_start, ← half]
  exact hears_second_half false long ⟨false, rfl⟩

/-- A low level that is over at the sample of the start bit is a glitch (41_line_engine.md R168). -/
theorem hears_glitch {s : State} {g m : Nat} (short : g ≤ s.bitCycles / 2) (ended : s.bitCycles / 2 + 1 ≤ g + m) :
    hears (List.replicate g false ++ List.replicate m true) (s.listening .idle true) = s.listening .idle true := by
  cases g with
  | zero => exact hears_steady m true s
  | succ g =>
    obtain ⟨n, half⟩ : ∃ n, s.bitCycles / 2 = g + n + 1 := ⟨s.bitCycles / 2 - g - 1, by omega⟩
    obtain ⟨l, high⟩ : ∃ l, m = n + (l + 1) := ⟨m - n - 1, by omega⟩
    have edge : Receiving s [] 0 (g + (n + 1)) (hear false (s.listening .idle true)) :=
      ⟨false, by rw [hear_edge, half, Nat.add_assoc]⟩
    obtain ⟨y, atSample⟩ := hears_counts n true Nat.one_pos (hears_counts g false n.succ_pos edge)
    rw [List.replicate_succ, high, List.replicate_add, List.replicate_succ, List.cons_append, hears_cons, hears_append,
      hears_append, atSample, hears_cons, hear_glitch, hears_steady]

/-! ## A character -/

/-- The samples of a character's waveform but for the last two, which are still in the flops when the waveform ends. -/
theorem hears_character {s : State} (mid : List Bool) (l : Bool) (long : 16 ≤ s.bitCycles)
    (length : (false :: (mid ++ [l])).length = charLength s.csr.lineFmt) :
    hears ((false :: mid).flatMap (List.replicate s.bitCycles) ++ List.replicate (s.bitCycles - 2) l)
        (s.listening .idle true) =
      (deliverByte (byteOfBits (sampledData s.csr.lineFmt (mid ++ [l]))) (charGood s.csr.lineFmt (mid ++ [l])) s).listening
        .idle l := by
  simp only [List.length_cons, List.length_append, List.length_nil] at length
  have started := hears_start_bit long
  have received := hears_bits mid long le_rfl (by omega) started
  have cycles : s.bitCycles - 2 = s.bitCycles / 2 + (s.bitCycles - s.bitCycles / 2 - 3 + 1) := by omega
  rw [List.flatMap_cons, List.append_assoc, hears_append, hears_append, cycles, List.replicate_add, List.replicate_succ]
  exact hears_last_bit _ l (by omega) (by omega) received

/-- The bits of a character from its start bit to its last stop bit. -/
theorem eq_start_cons_of_charLength {fmt : Byte} {c : List Bool} {l : Bool} (length : c.length = charLength fmt)
    (start : c.head? = some false) (last : c.getLast? = some l) : ∃ mid, c = false :: (mid ++ [l]) := by
  obtain ⟨ys, rfl⟩ := List.getLast?_eq_some_iff.1 last
  cases ys with
  | nil =>
    rw [charLength_eq, dataBits_eq, List.nil_append, List.length_singleton] at length
    omega
  | cons y mid =>
    obtain rfl : y = false := by simpa using start
    exact ⟨mid, rfl⟩

/-! ## From an idle receiver on an idle line -/

/-- The receiver is idle, and its flops and previous sample hold the idle level (41_line_engine.md R168; log entry 5). -/
def State.rxQuiet (s : State) : Prop := (s.listening .idle true).setFlops true true = s

theorem rxQuiet_of_idle {s : State} (idle : s.rx.rxSh = .idle) (prev : s.rx.rxPrev = true) (flop1 : s.rx.rxSync1 = true)
    (flop2 : s.rx.rxSync2 = true) : s.rxQuiet :=
  calc (s.listening .idle true).setFlops true true
      = (s.listening s.rx.rxSh s.rx.rxPrev).setFlops s.rx.rxSync1 s.rx.rxSync2 := by rw [idle, prev, flop1, flop2]
    _ = s := rfl

section Quiet

variable {s : State} (opened : s.lnk.link = .opened) (quiet : s.rxQuiet)
include opened quiet

/-- By the end of a waveform all its levels but the last two have been sampled. -/
theorem foldl_rxClock_of_rxQuiet (samples : List Bool) (y x : Bool) :
    (samples ++ [y, x]).foldl (fun t rxd => rxClock rxd t) s = (hears samples (s.listening .idle true)).setFlops x y := by
  have clocked := foldl_rxClock (true :: true :: samples) (levels := samples ++ [y, x]) (s := s.listening .idle true)
    opened rfl
  rwa [quiet, hears_cons, hears_cons, hear_steady, hear_steady] at clocked

theorem receives_character {c : List Bool} {l : Bool} (long : 16 ≤ s.bitCycles)
    (length : c.length = charLength s.csr.lineFmt) (start : c.head? = some false) (last : c.getLast? = some l) :
    (c.flatMap (List.replicate s.bitCycles)).foldl (fun t rxd => rxClock rxd t) s =
      ((deliverByte (byteOfBits (sampledData s.csr.lineFmt (c.drop 1))) (charGood s.csr.lineFmt (c.drop 1)) s).listening
        .idle l).setFlops l l := by
  obtain ⟨mid, rfl⟩ := eq_start_cons_of_charLength length start last
  have cycles : s.bitCycles = s.bitCycles - 2 + 2 := by omega
  have levels : (false :: (mid ++ [l])).flatMap (List.replicate s.bitCycles) =
      (false :: mid).flatMap (List.replicate s.bitCycles) ++ List.replicate (s.bitCycles - 2) l ++ [l, l] := by
    rw [← List.cons_append, List.flatMap_append, List.flatMap_singleton, List.append_assoc]
    congr 1
    nth_rw 1 [cycles]
    exact List.replicate_add _ _ _
  rw [levels, foldl_rxClock_of_rxQuiet opened quiet, hears_character mid l long length]
  rfl

theorem ignores_glitch {g h : Nat} (short : g ≤ s.bitCycles / 2) (ended : s.bitCycles / 2 + 3 ≤ g + h) :
    (List.replicate g false ++ List.replicate h true).foldl (fun t rxd => rxClock rxd t) s = s := by
  obtain ⟨m, rfl⟩ : ∃ m, h = m + 2 := ⟨h - 2, by omega⟩
  have levels : List.replicate g false ++ List.replicate (m + 2) true =
      List.replicate g false ++ List.replicate m true ++ [true, true] := by
    rw [List.replicate_add, List.append_assoc]
    rfl
  rw [levels, foldl_rxClock_of_rxQuiet opened quiet, hears_glitch short (by omega)]
  exact quiet

end Quiet

/-- A delivery leaves the receive shifter, the previous sample and the flops as they are. -/
theorem deliverByte_keeps_receiver (b : Byte) (good : Bool) (s : State) :
    (deliverByte b good s).rx.rxSh = s.rx.rxSh ∧ (deliverByte b good s).rx.rxPrev = s.rx.rxPrev ∧
      (deliverByte b good s).rx.rxSync1 = s.rx.rxSync1 ∧ (deliverByte b good s).rx.rxSync2 = s.rx.rxSync2 := by
  rw [deliverByte_keeps_unread]
  exact ⟨rfl, rfl, rfl, rfl⟩

theorem getLast?_charBits (fmt b : Byte) : (charBits fmt b).getLast? = some true := by
  rw [List.getLast?_eq_getElem?, length_charBits]
  have length := charLength_eq fmt
  have stops := stopBits_eq fmt
  exact charBits_stop fmt b (by omega) (by omega)

/-- Settles O56: the waveform's samples by the receiver behind the synchroniser, a sent byte by its character's parts. -/
theorem receiverFollowsWaveform : Obligations.ReceiverFollowsWaveform := by
  intro s legal _ opened idle prev flop1 flop2
  have long := sixteen_le_bitCycles legal
  have quiet := rxQuiet_of_idle idle prev flop1 flop2
  refine ⟨?character, fun g h short ended => ignores_glitch opened quiet short ended, fun b => ?sent⟩
  case character =>
    rintro c l u length start last rfl
    obtain ⟨sh, -⟩ := deliverByte_keeps_receiver (byteOfBits (sampledData s.csr.lineFmt (c.drop 1)))
      (charGood s.csr.lineFmt (c.drop 1)) s
    rw [receives_character opened quiet long length start last, ← idle, ← sh]
    rfl
  case sent =>
    obtain ⟨sh, kept, kept1, kept2⟩ := deliverByte_keeps_receiver (lineByte s.csr.lineFmt b) true s
    rw [receives_character opened quiet long (length_charBits _ b) rfl (getLast?_charBits _ b), sampledData_charBits,
      charGood_charBits, byteOfBits_dataBitsOf]
    exact rxQuiet_of_idle (sh.trans idle) (kept.trans prev) (kept1.trans flop1) (kept2.trans flop2)

end Sys2Proof.Machine

/-!
The framer: the checksum as a byte sum, and which changes of a frame's bytes the check rejects (spec/42_framer.md R190 to R195).
-/

namespace Sys2Proof

theorem toNat_cks (m c k : Byte) : (cks m c k).toNat = (m.toNat + c.toNat + k.toNat) % 256 := by
  simp [cks]

/-- The checksum is the sum of bytes, in which the carry out of bit 7 is lost (42_framer.md R190). -/
theorem cks_eq_add (m c k : Byte) : cks m c k = m + c + k := by
  apply BitVec.eq_of_toNat_eq
  simp [toNat_cks, BitVec.toNat_add]

/-- A frame passes the check exactly when it has the marker and its last byte is the sum of the others (42_framer.md R192). -/
theorem Frame.valid_iff (f : Frame) : f.valid = true ↔ f.f0 = marker ∧ f.f3 = f.f0 + f.f1 + f.f2 := by
  simp [Frame.valid, cks_eq_add]

theorem mkFrame_valid (ch code : Byte) : (mkFrame ch code).valid = true :=
  (Frame.valid_iff _).2 ⟨rfl, cks_eq_add _ _ _⟩

/-- A valid frame holds nothing but its channel and code: the two other bytes follow from them (42_framer.md R195). -/
theorem mkFrame_of_valid {f : Frame} (valid : f.valid = true) : mkFrame f.f1 f.f2 = f := by
  obtain ⟨isMarker, sum⟩ := f.valid_iff.1 valid
  rw [mkFrame, cks_eq_add, ← isMarker, ← sum]

/-- Settles O4: the checksum is addition of bytes, which is commutative, and a valid frame is the one built. -/
theorem checksumAndFrameLaws : Obligations.ChecksumAndFrameLaws := by
  refine ⟨fun m c k => ⟨toNat_cks m c k, cks_eq_add m c k, ?swapFirst, ?swapLast⟩, mkFrame_valid, fun _ => mkFrame_of_valid⟩
  case swapFirst => rw [cks_eq_add, cks_eq_add, add_comm m c]
  case swapLast => rw [cks_eq_add, cks_eq_add, add_right_comm]

/-- Settles O5: the marker is one value and each other byte cancels in the sum of a valid frame, so a second value of one byte
fails (R193); a change that leaves both sides of the sum equal passes (R194). -/
theorem byteChangesCaughtOrNot : Obligations.ByteChangesCaughtOrNot := by
  intro f x e valid
  obtain ⟨isMarker, sum⟩ := f.valid_iff.1 valid
  simp only [Bool.eq_false_iff, ne_eq, Frame.valid_iff]
  refine ⟨?marker, ?channel, ?code, ?checksum, ⟨isMarker, ?channelCode⟩, ⟨isMarker, ?channelChecksum⟩,
    ⟨isMarker, ?codeChecksum⟩⟩
  case marker => exact fun changed h => changed (h.1.trans isMarker.symm)
  case channel =>
    rintro changed ⟨-, sum'⟩
    exact changed (add_left_cancel (add_right_cancel (sum'.symm.trans sum)))
  case code =>
    rintro changed ⟨-, sum'⟩
    exact changed (add_left_cancel (sum'.symm.trans sum))
  case checksum => exact fun changed h => changed (h.2.trans sum.symm)
  case channelCode | channelChecksum | codeChecksum =>
    rw [sum]
    ring

end Sys2Proof

/-!
The helpers of the protocol driver: RDSTATE, COMPOSE and CMD2BOOL (spec/43_protocol_driver.md R229 to R231;
spec/60_exceptions.md R273).
-/

namespace Sys2Proof.Machine

/-! ## The link test and the channel test -/

theorem ite_fatal_of_fatal {α : Type} {s : State} (fatal : s.lnk.link = .fatal) (refused done : α) :
    (if s.linkFatal = true then refused else done) = refused :=
  if_pos ((linkFatal_iff s).2 fatal)

theorem ite_fatal_of_not_fatal {α : Type} {s : State} (notFatal : s.lnk.link ≠ .fatal) (refused done : α) :
    (if s.linkFatal = true then refused else done) = done :=
  if_neg (mt (linkFatal_iff s).1 notFatal)

theorem validChannel_eq_false {s : State} {ch : Byte} (outside : ch.toNat < 1 ∨ s.cfg.channels < ch.toNat) :
    s.validChannel ch = false := by
  rw [← Bool.not_eq_true, validChannel_iff]
  omega

/-- A channel other than 0 has its register one position below its number (10_state.md R21). -/
theorem relay_of_ne_zero {ch : Byte} (named : ch ≠ 0#8) (s : State) :
    s.relay ch = s.drv.relayState.getD (ch.toNat - 1) false :=
  if_neg named

theorem boolValue_eq (b : Bool) : boolValue b = if b then 1#16 else 0#16 := by
  cases b <;> rfl

/-! ## RDSTATE -/

theorem exec_rdstate_of_not_fatal {s : State} (notFatal : s.lnk.link ≠ .fatal) (ch : Byte) :
    exec (.rdstate ch) s = .next (
      if s.validChannel ch = false then s.raise .invChan else s.finish (OpResult.value (boolValue (s.relay ch)))) := by
  simp only [exec, execRdstate, ite_fatal_of_not_fatal notFatal, Bool.not_eq_true', apply_ite Host.Outcome.next]

/-- Settles O32: by the link test, then the channel test. -/
theorem rdstateReads : Obligations.RdstateReads := by
  intro s ch
  refine ⟨fun fatal => ite_fatal_of_fatal fatal _ _, fun notFatal outside => ?_, fun notFatal first last => ?_⟩
  · rw [exec_rdstate_of_not_fatal notFatal, if_pos (validChannel_eq_false outside)]
  · have valid := (validChannel_iff s ch).2 ⟨first, last⟩
    rw [exec_rdstate_of_not_fatal notFatal, if_neg (by simp [valid]), relay_of_ne_zero (ne_zero_of_one_le first), boolValue_eq]

/-! ## COMPOSE -/

theorem exec_compose_of_not_fatal {s : State} (notFatal : s.lnk.link ≠ .fatal) (r fb : Bool) :
    exec (.compose r fb) s = .next (s.finish
      { cmd := composed r fb, err := .no, val := (commandCode (composed r fb)).setWidth 16 }) :=
  ite_fatal_of_not_fatal notFatal _ _

/-- Settles O33: the link test passed, the rest is the table. -/
theorem composeTable : Obligations.ComposeTable := fun _ notFatal =>
  have row := exec_compose_of_not_fatal notFatal
  ⟨row false false, row true false, row false true, row true true⟩

/-! ## CMD2BOOL -/

theorem exec_cmd2bool_of_not_fatal {s : State} (notFatal : s.lnk.link ≠ .fatal) (cmd : BitVec 4) :
    exec (.cmd2bool cmd) s = .next (
      if cmd = 1#4 then s.finish (OpResult.value 1#16)
      else if cmd = 0#4 then s.finish (OpResult.value 0#16)
      else s.enterFatal .badBool) := by
  simp only [exec, execCmd2bool, ite_fatal_of_not_fatal notFatal, apply_ite Host.Outcome.next]
  rfl

/-- Settles O34: by the link test, then the code; only 1 and 0 are those of ON and OFF. -/
theorem cmd2boolOutcome : Obligations.Cmd2boolOutcome := by
  intro s cmd
  refine ⟨fun fatal => ite_fatal_of_fatal fatal _ _, ?on, ?off, fun notFatal other => ?_⟩
  case on =>
    rintro notFatal rfl
    exact exec_cmd2bool_of_not_fatal notFatal _
  case off =>
    rintro notFatal rfl
    exact exec_cmd2bool_of_not_fatal notFatal _
  · have notOn : cmd ≠ 1#4 := by
      rintro rfl
      simp at other
    have notOff : cmd ≠ 0#4 := by
      rintro rfl
      simp at other
    rw [exec_cmd2bool_of_not_fatal notFatal, if_neg notOn, if_neg notOff]

end Sys2Proof.Machine

/-!
SEND and the command frames: the operand tests, the frame handed over or not, the result or the wait
(spec/43_protocol_driver.md R211 to R221; spec/30_encoding.md R92).
-/

namespace Sys2Proof.Machine

/-! ## The rows of SEND -/

theorem sendRows_eq (c : Command) (ch : Byte) : sendRows c ch = [sendForm (commandCode c) ch, .send (commandCode c) ch] := by
  cases c <;> rfl

/-- A SEND's sub-form row and its generic row mean the same (log entry 8). -/
theorem exec_of_mem_rows {cmd : BitVec 4} {ch : Byte} {i : Instr} (row : i = sendForm cmd ch ∨ i = .send cmd ch)
    (s : State) :
    exec i s = .next (sendOp cmd ch s) := by
  obtain rfl | rfl := row
  · exact exec_sendForm cmd ch s
  · rfl

theorem exec_sendRow {c : Command} {ch : Byte} {i : Instr} (row : i ∈ sendRows c ch) (s : State) :
    exec i s = .next (sendOp (commandCode c) ch s) :=
  exec_of_mem_rows (by simpa [sendRows_eq] using row) s

section Opened

variable {s t : State} {cmd : BitVec 4} {ch : Byte} (opened : s.lnk.link = .opened)
include opened

theorem sendOp_of_result {r : OpResult} (h : sendFrom cmd ch s = (t, some r)) : sendOp cmd ch s = t.finish r := by
  rw [sendOp, ite_shut_of_open opened, h]

theorem sendOp_of_wait (h : sendFrom cmd ch s = (t, none)) : sendOp cmd ch s = t := by
  rw [sendOp, ite_shut_of_open opened, h]

theorem sendOp_badChannel (outside : ch.toNat < 1 ∨ s.cfg.channels < ch.toNat) : sendOp cmd ch s = s.raise .invChan :=
  sendOp_of_result opened (sendFrom_badChannel cmd ch s outside)

theorem sendOp_notWire (first : 1 ≤ ch.toNat) (last : ch.toNat ≤ s.cfg.channels) (notWire : 6 ≤ cmd.toNat) :
    sendOp cmd ch s = s.raise .wrngCom :=
  sendOp_of_result opened (sendFrom_notWire cmd ch s first last notWire)

end Opened

/-- Settles O18: every row of SEND runs the two operand tests in their order, and a refused one ends with the error alone. -/
theorem sendRefusesOperands : Obligations.SendRefusesOperands := by
  intro s cmd ch opened
  refine ⟨fun outside i row => ?_, fun first last => ⟨?none, ?error, fun reserved => ?_, fun notWire => ?_⟩⟩
  · rw [exec_of_mem_rows (by simpa [or_comm] using row), sendOp_badChannel opened outside]
  case none => exact congrArg _ (sendOp_notWire opened first last (by decide))
  case error => exact congrArg _ (sendOp_notWire opened first last (by decide))
  · exact congrArg _ (sendOp_notWire opened first last (by omega))
  · exact congrArg _ (sendOp_notWire opened first last notWire)

/-! ## What a SEND sends -/

theorem sentFor_setSqr (c : Command) (ch : Byte) (q : Sequencer) (s : State) :
    (s.setSqr q).sentFor c ch = (s.sentFor c ch).setSqr q := rfl

theorem sentFor_txq_le (c : Command) (ch : Byte) {s : State} (bound : s.tx.txq.length ≤ s.cfg.cap) :
    (s.sentFor c ch).tx.txq.length ≤ s.cfg.cap :=
  frameQueued_txq_le _ (s.predictedFor c ch) bound

section Wire

variable {s : State} {c : Command} {ch : Byte} (wire : isWireCommand c) (first : 1 ≤ ch.toNat)
  (last : ch.toNat ≤ s.cfg.channels) (bound : s.tx.txq.length ≤ s.cfg.cap)
include wire first bound

/-- SEND's lines L4 to L9, and whether the frame was handed over whole (43_protocol_driver.md R220). -/
theorem sendOut_eq : sendOut (commandCode c) ch s = (s.sentFor c ch, decide s.roomForFrame) := by
  rw [sendOut, predicted_eq c ch s wire first, commandCode_wireCode]
  exact transmitFrame_eq _ (s.predictedFor c ch) bound

include last

theorem sendFrom_noRoom (noRoom : ¬ s.roomForFrame) :
    sendFrom (commandCode c) ch s = (s.sentFor c ch, some (OpResult.error .noSend)) := by
  have valid := (validChannel_iff s ch).2 ⟨first, last⟩
  have sent : sendOut (commandCode c) ch s = (s.sentFor c ch, false) := by
    rw [sendOut_eq wire first bound, decide_eq_false noRoom]
  simp [sendFrom, valid, commandCode_lt c wire, sent]

theorem sendFrom_plain (room : s.roomForFrame) (plain : ¬ isCheckCommand c) :
    sendFrom (commandCode c) ch s = (s.sentFor c ch, some (OpResult.value 0#16)) := by
  have valid := (validChannel_iff s ch).2 ⟨first, last⟩
  have sent : sendOut (commandCode c) ch s = (s.sentFor c ch, true) := by
    rw [sendOut_eq wire first bound, decide_eq_true room]
  have noAnswer : isCheckType (commandCode c) = false := by
    rw [isCheckType_commandCode, decide_eq_false plain]
  simp [sendFrom, valid, commandCode_lt c wire, sent, noAnswer]

end Wire

theorem wire_of_check {c : Command} (check : isCheckCommand c) : isWireCommand c := by
  rcases check with rfl | rfl | rfl | rfl <;> decide

theorem txq_le_of_room {s : State} (room : s.roomForFrame) : s.tx.txq.length ≤ s.cfg.cap :=
  (Nat.le_add_right _ 4).trans room.1

section Check

variable {s : State} {c : Command} {ch : Byte} (check : isCheckCommand c) (first : 1 ≤ ch.toNat)
  (last : ch.toNat ≤ s.cfg.channels) (room : s.roomForFrame)
include check first last room

theorem sendFrom_unwaited (noWait : s.answerWaitMs = 0) :
    sendFrom (commandCode c) ch s = (s.sentFor c ch, some (OpResult.error .noRecv)) := by
  rw [sendFrom_wire c ch s (wire_of_check check) first last (txq_le_of_room room) (absurd noWait),
    if_neg (not_not.2 room), if_neg (not_not.2 check), if_pos noWait]

theorem sendFrom_waits (legal : s.cfg.legal) (wait : s.answerWaitMs ≠ 0) :
    sendFrom (commandCode c) ch s = ((s.sentFor c ch).startWait .sendWait s.answerWaitCycles, none) := by
  rw [sendFrom_wire c ch s (wire_of_check check) first last (txq_le_of_room room) (answerWaitCycles_ne_zero s legal),
    if_neg (not_not.2 room), if_neg (not_not.2 check), if_neg wait]

end Check

/-- Settles O19: OFF and ON are no check-type commands, so the SEND ends once the frame is handed over. -/
theorem plainSendCompletes : Obligations.PlainSendCompletes := by
  intro s c ch i offOrOn row opened first last room
  have wire : isWireCommand c := by rcases offOrOn with rfl | rfl <;> decide
  have plain : ¬ isCheckCommand c := by rcases offOrOn with rfl | rfl <;> decide
  rw [exec_sendRow row, sendOp_of_result opened (sendFrom_plain wire first last (txq_le_of_room room) room plain)]

/-- Settles O20: at a legal clock the wait of some milliseconds has some cycles, so the SEND begins it. -/
theorem checkSendWaits : Obligations.CheckSendWaits := by
  intro s c ch i legal check row opened first last room wait
  rw [exec_sendRow row, sendOp_of_wait opened (sendFrom_waits check first last room legal wait)]
  rfl

/-- Settles O21: the two wait registers at 0 make the answer wait 0. -/
theorem checkSendWithoutWait : Obligations.CheckSendWithoutWait := by
  intro s c ch i check row opened first last room waitHi waitLo
  have noWait : s.answerWaitMs = 0 := by simp [State.answerWaitMs, waitHi, waitLo]
  rw [exec_sendRow row, sendOp_of_result opened (sendFrom_unwaited check first last room noWait)]
  rfl

/-- Settles O22: without room for the frame a SEND of any wire command ends after its flush. -/
theorem shortSendReportsNoSend : Obligations.ShortSendReportsNoSend := by
  intro s c ch i wire row opened first last bound noRoom
  rw [exec_sendRow row, sendOp_of_result opened (sendFrom_noRoom wire first last bound noRoom)]
  rfl

/-! ## Command frames -/

theorem exec_frameRow {c : Command} {ch ck : Byte} {i : Instr} (row : i ∈ frameRows c ch ck) (s : State) :
    exec i s = .next (commandFrameOp { f0 := marker, f1 := ch, f2 := wireCode c, f3 := ck } s) := by
  cases c with
  | none | error => exact absurd row List.not_mem_nil
  | off | on | offCheck | onCheck | negateCheck | check =>
    obtain rfl := List.mem_singleton.1 row
    rfl

theorem commandFrameOp_of_open (f : Frame) {s : State} (opened : s.lnk.link = .opened)
    (bound : s.tx.txq.length ≤ s.cfg.cap) :
    commandFrameOp f s =
      if s.roomForFrame then (s.frameQueued f).finish (OpResult.value 0#16) else (s.frameQueued f).raise .noSend := by
  simp only [commandFrameOp, ite_shut_of_open opened, transmitFrame_eq f s bound, decide_eq_true_eq]

/-- Settles O23: a FRAME row hands its four bytes over as SEND does, and the room decides the result. -/
theorem commandFrameHandedOver : Obligations.CommandFrameHandedOver := by
  rintro s c ch ck i f row rfl
  have ran := exec_frameRow row s
  refine ⟨fun shut => ?_, fun opened room => ?_, fun opened bound noRoom => ?_⟩
  · exact ran.trans (congrArg _ (commandFrameOp_of_not_open _ shut))
  · exact ran.trans (congrArg _ ((commandFrameOp_of_open _ opened (txq_le_of_room room)).trans (if_pos room)))
  · exact ran.trans (congrArg _ ((commandFrameOp_of_open _ opened bound).trans (if_neg noRoom)))

end Sys2Proof.Machine

/-!
RECV and the feedback frames: the checks on a window in their order, what RECV writes, and the end of a SEND's wait, which is a
RECV's (spec/43_protocol_driver.md R220, R222 to R227, R232 to R234; spec/70_reset_and_hazards.md R320).
-/

namespace Sys2Proof.Machine

/-! ## The registers -/

theorem relay_setRelay_same {ch : Byte} {s : State} (named : ch ≠ 0#8) (present : ch.toNat ≤ s.drv.relayState.length)
    (v : Bool) : (s.setRelay ch v).relay ch = v := by
  have positive : ch.toNat ≠ 0 := fun h => named (BitVec.eq_of_toNat_eq h)
  have inside : ch.toNat - 1 < s.drv.relayState.length := by omega
  rw [relay_of_ne_zero named, setRelay_drv]
  simp [named, inside]

theorem relay_setRelay_other {ch other : Byte} (differ : other ≠ ch) (v : Bool) (s : State) :
    (s.setRelay ch v).relay other = s.relay other := by
  by_cases noRegister : ch = 0#8
  · simp [State.relay, noRegister]
  by_cases notRead : other = 0#8
  · simp [State.relay, notRead]
  have apart : ch.toNat - 1 ≠ other.toNat - 1 := by bv_omega
  rw [relay_of_ne_zero notRead, relay_of_ne_zero notRead, setRelay_drv]
  simp [noRegister, List.getD_eq_getElem?_getD, List.getElem?_set_ne apart]

/-! ## The checks on a window -/

theorem setRelay_of_ne_zero {ch : Byte} (named : ch ≠ 0#8) (v : Bool) (s : State) :
    s.setRelay ch v = { s with drv := { s.drv with relayState := s.drv.relayState.set (ch.toNat - 1) v } } := by
  simp [State.setRelay, named]

/-- How an operation ends that judges the window `f`: the checks in their order (43_protocol_driver.md R222 M6 to M11). -/
theorem finish_evalWindow (f : Frame) (s : State) :
    (evalWindow f s).1.finish (evalWindow f s).2 =
      if ¬ (f.f0 = 0xA0#8 ∧ f.f3 = cks f.f0 f.f1 f.f2) then s.raise .wrngCrc
      else if s.drv.lastChannel = 0#8 ∨ f.f1 ≠ s.drv.lastChannel then s.raise .wrngRel
      else if 1 < f.f2.toNat then s.raise .wrngCom
      else if decide (f.f2 = 1#8) ≠ s.drv.relayState.getD (f.f1.toNat - 1) false then
        State.raise .wrngSta
          { s with drv := { s.drv with relayState := s.drv.relayState.set (f.f1.toNat - 1) (decide (f.f2 = 1#8)) } }
      else s.finish { cmd := if f.f2 = 1#8 then .on else .off, err := .no, val := 0#16 } := by
  have invalid : (!f.valid) = true ↔ ¬ (f.f0 = 0xA0#8 ∧ f.f3 = cks f.f0 f.f1 f.f2) := by
    simp [Frame.valid, marker, imp_iff_not_or]
  have reported : (f.f2 == 1#8) = decide (f.f2 = 1#8) := rfl
  by_cases notMine : s.drv.lastChannel = 0#8 ∨ f.f1 ≠ s.drv.lastChannel
  · simp only [evalWindow, invalid, if_pos notMine]
    split_ifs <;> rfl
  · obtain ⟨named, mine⟩ : s.drv.lastChannel ≠ 0#8 ∧ f.f1 = s.drv.lastChannel := by simpa using notMine
    rw [← mine] at named
    simp only [evalWindow, invalid, if_neg notMine, reported, relay_of_ne_zero named, setRelay_of_ne_zero named,
      OpResult.command, reportedCommand, decide_eq_true_eq]
    split_ifs <;> rfl

/-! ## RECV as a host operation -/

theorem exec_recv_of_open {s : State} (opened : s.lnk.link = .opened) :
    exec .recv s = .next ((recvFrom s).1.finish (recvFrom s).2) :=
  ite_shut_of_open opened _ _

theorem eq_of_exec_recv {s t : State} (opened : s.lnk.link = .opened) (ran : exec .recv s = .next t) :
    t = (recvFrom s).1.finish (recvFrom s).2 :=
  Host.Outcome.next.inj (ran.symm.trans (exec_recv_of_open opened))

/-- Settles O24: by the link test and the length of `rxq` after the poll; with a whole window, by its checks. -/
theorem recvJudgesNewestFour : Obligations.RecvJudgesNewestFour := by
  intro s
  refine ⟨exec_of_not_open rfl, fun opened few => ?_, fun old f opened queue => ?_⟩
  · rw [exec_recv_of_open opened, recvFrom_short s few]
    rfl
  · have enough : ¬ s.polled.rx.rxq.length < 4 := by simp [queue]
    rw [exec_recv_of_open opened, recvFrom_window s enough, queue, windowOf_append, finish_evalWindow]
    rfl

/-! ## Feedback frames -/

/-- The frame of row FB_ON or FB_OFF, its checksum byte as it stands (30_encoding.md R93). -/
def feedbackFrame (rep : Bool) (ch ck : Byte) : Frame := { f0 := marker, f1 := ch, f2 := if rep then 1#8 else 0#8, f3 := ck }

theorem exec_feedbackRow (rep : Bool) (ch ck : Byte) (s : State) :
    exec (if rep then .fbOn ch ck else .fbOff ch ck) s = .next (feedbackFrameOp (feedbackFrame rep ch ck) s) := by
  cases rep <;> rfl

theorem feedbackRow_wellFormed (rep : Bool) (ch ck : Byte) :
    Instr.wellFormed (if rep then .fbOn ch ck else .fbOff ch ck) = decide (ck = cks marker ch (if rep then 1#8 else 0#8)) := by
  cases rep <;> rfl

/-- A feedback frame has the marker and a state in its third byte, so three of RECV's checks are left
(43_protocol_driver.md R232, R233). -/
theorem feedbackFrameOp_of_open (rep : Bool) (ch ck : Byte) {s : State} (opened : s.lnk.link = .opened) :
    feedbackFrameOp (feedbackFrame rep ch ck) s =
      if ck ≠ cks marker ch (if rep then 1#8 else 0#8) then s.raise .wrngCrc
      else if s.drv.lastChannel = 0#8 ∨ ch ≠ s.drv.lastChannel then s.raise .wrngRel
      else if rep ≠ s.drv.relayState.getD (ch.toNat - 1) false then
        State.raise .wrngSta { s with drv := { s.drv with relayState := s.drv.relayState.set (ch.toNat - 1) rep } }
      else s.finish { cmd := if rep then .on else .off, err := .no, val := 0#16 } := by
  rw [feedbackFrameOp, ite_shut_of_open opened, finish_evalWindow]
  cases rep <;> simp [feedbackFrame, marker]

/-- Settles O25: by the three checks a feedback frame can fail, in their order. -/
theorem feedbackFrameOutcome : Obligations.FeedbackFrameOutcome := by
  rintro s ch ck i rep rfl
  rw [exec_feedbackRow, feedbackRow_wellFormed, decide_eq_true_iff, decide_eq_false_iff_not]
  refine ⟨?shut, ?badSum, ?notMine, ?agrees, ?differs⟩
  case shut =>
    intro shut
    rw [feedbackFrameOp_of_not_open _ shut]
  case badSum =>
    intro opened badSum
    rw [feedbackFrameOp_of_open rep ch ck opened, if_pos badSum]
  case notMine =>
    intro opened sum notMine
    rw [feedbackFrameOp_of_open rep ch ck opened, if_neg (not_not.2 sum), if_pos notMine.symm]
  case agrees =>
    intro opened sum mine named agrees
    rw [feedbackFrameOp_of_open rep ch ck opened, if_neg (not_not.2 sum), if_neg (by simp [mine, named]),
      if_neg (not_not.2 agrees.symm)]
  case differs =>
    intro opened sum mine named differs
    rw [feedbackFrameOp_of_open rep ch ck opened, if_neg (not_not.2 sum), if_neg (by simp [mine, named]),
      if_pos (Ne.symm differs)]

/-! ## What RECV writes -/

/-- What RECV does and answers: it keeps fewer than 4 bytes, or empties `rxq`; then it rejects the window, corrects the
register of `lastChannel`, or reports the state that register holds (43_protocol_driver.md R222 M2 to M11, R234). -/
inductive RecvAnswers (s : State) : State × OpResult → Prop where
  | tooFew (few : s.polled.rx.rxq.length < 4) : RecvAnswers s (s.polled, .error .noRecv)
  | rejected {e : ErrCode} (noState : e ≠ .wrngSta) (isError : e ≠ .no) : RecvAnswers s (s.polled.drained, .error e)
  | corrected (named : s.drv.lastChannel ≠ 0#8) :
      RecvAnswers s (s.polled.drained.setRelay s.drv.lastChannel (!s.relay s.drv.lastChannel), .error .wrngSta)
  | reported : RecvAnswers s (s.polled.drained, .command (reportedCommand (s.relay s.drv.lastChannel)))

theorem recvFrom_answers (s : State) : RecvAnswers s (recvFrom s) := by
  by_cases few : s.polled.rx.rxq.length < 4
  · rw [recvFrom_short s few]
    exact .tooFew few
  rw [recvFrom_window s few]
  generalize windowOf s.polled.rx.rxq = f
  have relay (ch : Byte) : s.polled.drained.relay ch = s.relay ch := rfl
  rcases evalWindow_spec f s.polled.drained with ⟨e, noState, isError, -, judged⟩ | ⟨mine, named, differs, judged⟩ |
    ⟨mine, -, agrees, judged⟩
  · rw [judged]
    exact .rejected noState isError
  · rw [drained_drv, polled_drv] at mine
    rw [relay, mine] at differs
    rw [mine] at named
    rw [judged, mine, ← Bool.not_not (f.f2 == 1#8), ← differs]
    exact .corrected named
  · rw [drained_drv, polled_drv] at mine
    rw [relay, mine] at agrees
    rw [judged, ← agrees]
    exact .reported

theorem RecvAnswers.of_no_error {s : State} {p : State × OpResult} (h : RecvAnswers s p) (ok : p.2.err = .no) :
    p = (s.polled.drained, .command (reportedCommand (s.relay s.drv.lastChannel))) := by
  cases h with
  | reported => rfl
  | rejected _ isError => exact absurd ok isError
  | tooFew | corrected => cases ok

/-- A character of fewer than 8 data bits has no bit 7, which the marker has (70_reset_and_hazards.md R320). -/
theorem ne_marker_of_lt {b : Byte} {k : Nat} (narrow : k < 8) (fits : b.toNat < 2 ^ k) : b ≠ marker := by
  rintro rfl
  have small : 2 ^ k ≤ 2 ^ 7 := Nat.pow_le_pow_right two_pos (by omega)
  exact absurd (fits.trans_le small) (by decide)

/-- Where no character can be the marker, no window is valid. -/
theorem windowOf_not_valid {q : List Byte} (noMarker : ∀ b ∈ q, b ≠ marker) : (windowOf q).valid = false := by
  have first : (windowOf q).f0 ≠ marker := by
    by_cases inside : q.length - 4 < q.length
    · have newest : (windowOf q).f0 = q[q.length - 4] := List.getD_eq_getElem q 0#8 inside
      rw [newest]
      exact noMarker _ (List.getElem_mem inside)
    · have absent : (windowOf q).f0 = 0#8 := List.getD_eq_default q 0#8 (not_lt.1 inside)
      rw [absent]
      decide
  simp [Frame.valid, first]

/-- With fewer than 8 data bits RECV never comes past the check of the marker (70_reset_and_hazards.md R320). -/
theorem recvFrom_narrow {s : State} (fits : s.rxFits) (narrow : dataBits s.csr.lineFmt < 8) :
    (recvFrom s).2.err = .noRecv ∨ (recvFrom s).2.err = .wrngCrc := by
  by_cases few : s.polled.rx.rxq.length < 4
  · rw [recvFrom_short s few]
    exact .inl rfl
  · have polledFits : s.polled.rxFits := rxFits_of_received fits rfl (dataOp_pollRx s).received
    have invalid := windowOf_not_valid fun b inQueue =>
      ne_marker_of_lt narrow (polledFits b (List.mem_append_left s.polled.rx.rxStage inQueue))
    rw [recvFrom_window s few, evalWindow, invalid]
    exact .inr rfl

theorem dataBits_lt_eight {fmt : Byte} (narrow : fmt.toNat % 4 ≠ 3) : dataBits fmt < 8 := by
  rw [dataBits_eq]
  omega

/-- Settles O26: by RECV's four answers; the last law by the marker, which narrow characters cannot carry. -/
theorem recvWritesOnlyLastChannel : Obligations.RecvWritesOnlyLastChannel := by
  intro s t ran opened
  obtain rfl := eq_of_exec_recv opened ran
  have narrow : s.rxFits → s.csr.lineFmt.toNat % 4 ≠ 3 →
      (recvFrom s).2.err = .noRecv ∨ (recvFrom s).2.err = .wrngCrc :=
    fun fits format => recvFrom_narrow fits (dataBits_lt_eight format)
  have answers := recvFrom_answers s
  generalize recvFrom s = p at answers narrow ⊢
  cases answers with
  | tooFew few =>
    exact ⟨rfl, fun _ _ => rfl, few, fun h => absurd rfl h, nofun, fun _ => rfl, nofun, narrow⟩
  | rejected noState isError =>
    exact ⟨rfl, fun _ _ => rfl, Nat.zero_lt_succ 3, fun _ => rfl, fun h => absurd h noState, fun _ => rfl,
      fun h => absurd h isError, narrow⟩
  | corrected named =>
    exact ⟨rfl, fun _ differ => relay_setRelay_other differ _ _, Nat.zero_lt_succ 3, fun _ => rfl,
      fun _ present => relay_setRelay_same named present _, fun h => absurd rfl h, nofun, narrow⟩
  | reported =>
    exact ⟨rfl, fun _ _ => rfl, Nat.zero_lt_succ 3, fun _ => rfl, nofun, fun _ => rfl, fun _ => rfl, narrow⟩

/-! ## The end of a SEND's wait -/

/-- An answer wait ends in the same way by its last clock cycle as without time (10_state.md R26). -/
theorem answerWait_ended {s : State} (waiting : s.sqr.seq = .sendWait) :
    waitEnds s = answerWaitEnds s ∧ ∀ d : Bool, s.sqr.timer = 1 → seqClock d s = answerWaitEnds s :=
  have ended := waitEnds_sendWait waiting
  ⟨ended, fun d timer => (seqClock_of_timer_le_one d (.inl waiting) timer.le).trans ended⟩

/-- A host that asked for feedback sends once more exactly after an error, where a reported state is the one it asked for
(60_exceptions.md R279). -/
theorem dispatchRetries_eq {want : Bool} {r : OpResult} (asked : r.err = .no → r.cmd = reportedCommand want) :
    dispatchRetries want true r = decide (r.err ≠ .no) := by
  by_cases ok : r.err = .no
  · simp [dispatchRetries, ok, asked ok]
  · simp [dispatchRetries, ok]

/-- Settles O27: a waiting SEND ends as the RECV of `recvFrom_answers`, whose one answer without error reports the register. -/
theorem answerEqualsPrediction : Obligations.AnswerEqualsPrediction := by
  intro s want waiting inactive
  have ends := answerWaitEnds_send s inactive
  have noError := (recvFrom_answers s.waitOver).of_no_error
  have reported (ok : (answerWaitEnds s).res.err = .no) :
      (answerWaitEnds s).res.cmd = reportedCommand (s.relay s.drv.lastChannel) ∧ (answerWaitEnds s).drv = s.drv := by
    rw [ends] at ok ⊢
    rw [noError ok]
    exact ⟨rfl, rfl⟩
  refine ⟨answerWait_ended waiting, fun opened => ?_, ?_, ?_, reported, ?_⟩
  · rw [ends]
    exact exec_recv_of_open opened
  · rw [ends]
    rfl
  · rw [ends]
    rfl
  · rintro rfl
    exact dispatchRetries_eq fun ok => (reported ok).1

end Sys2Proof.Machine

/-!
INIT: the loop's turn at a channel, the loop without a wait, and how it goes on or ends after a wait
(spec/43_protocol_driver.md R217, R220, R228; spec/10_state.md R26 to R28).
-/

namespace Sys2Proof.Machine

/-! ## One turn of the loop -/

/-- INIT's next channel exists (43_protocol_driver.md R228 I3). -/
abbrev State.hasNextChannel (s : State) : Prop :=
  1 ≤ (s.sqr.initCh + 1#8).toNat ∧ (s.sqr.initCh + 1#8).toNat ≤ s.cfg.channels

section Turn

variable {s : State} (next : s.hasNextChannel) (n : Nat)
include next

/-- With room for the frame and a wait, the next channel's CHECK is sent and waited for. -/
theorem initLoop_waits (legal : s.cfg.legal) (room : s.roomForFrame) (wait : s.answerWaitMs ≠ 0) :
    initLoop (n + 1) s =
      (s.sentFor .check (s.sqr.initCh + 1#8)).setSqr
        { s.sqr with seq := .sendWait, timer := s.answerWaitCycles, initCh := s.sqr.initCh + 1#8 } := by
  have sent := sendFrom_waits (s := s.initNext) (c := .check) (by decide) next.1 next.2 room legal wait
  simp only [initLoop, initNext_sqr, sent]
  rfl

/-- Without one of them, the next channel's CHECK ends with an error, which is counted, and the loop goes on. -/
theorem initLoop_counts (bound : s.tx.txq.length ≤ s.cfg.cap) (fails : ¬ s.roomForFrame ∨ s.answerWaitMs = 0) :
    initLoop (n + 1) s =
      initLoop n ((s.sentFor .check (s.sqr.initCh + 1#8)).setSqr
        { s.sqr with initCh := s.sqr.initCh + 1#8, initErrs := s.sqr.initErrs + 1#8 }) := by
  obtain ⟨e, isError, sent⟩ : ∃ e ≠ ErrCode.no, sendFrom (commandCode .check) (s.sqr.initCh + 1#8) s.initNext =
      (s.initNext.sentFor .check (s.sqr.initCh + 1#8), some (OpResult.error e)) := by
    by_cases room : s.roomForFrame
    · have noWait : s.answerWaitMs = 0 := fails.resolve_left (not_not.2 room)
      exact ⟨.noRecv, nofun, sendFrom_unwaited (by decide) next.1 next.2 room noWait⟩
    · exact ⟨.noSend, nofun, sendFrom_noRoom (by decide) next.1 next.2 bound room⟩
  simp only [initLoop, initNext_sqr, sent, State.countErr, OpResult.error, if_neg isError]
  rfl

end Turn

theorem exec_init_of_open {s : State} (opened : s.lnk.link = .opened) :
    exec .init s = .next (initLoop s.cfg.channels s.initBegin) :=
  ite_shut_of_open opened _ _

theorem initLoop_zero (s : State) : initLoop 0 s = s.initEnd := rfl

/-- Settles O29: by one turn of the loop, which waits or counts an error. -/
theorem initTakesChannelsInTurn : Obligations.InitTakesChannelsInTurn := by
  refine ⟨fun s legal opened room wait => ?_, fun s opened => exec_init_of_open opened, ?turn, fun s => ?_⟩
  · obtain ⟨n, channels⟩ : ∃ n, s.cfg.channels = n + 1 := Nat.exists_eq_add_of_le' legal.1
    rw [exec_init_of_open opened, channels, initLoop_waits (s := s.initBegin) ⟨le_rfl, legal.1⟩ n legal room wait]
    rfl
  case turn =>
    rintro s _ n _ legal bound rfl first last rfl
    split_ifs with waits
    · exact initLoop_waits ⟨first, last⟩ n legal waits.1 waits.2
    · exact initLoop_counts ⟨first, last⟩ n bound ((not_and_or.1 waits).imp_right not_not.1)
  · rw [initLoop_zero, BitVec.ofNat_toNat]
    rfl

/-! ## INIT without a wait -/

/-- The state after a CHECK was sent to each of the `n` channels after channel `k` (43_protocol_driver.md R228 I3, I4). -/
def checksSent (k n : Nat) (s : State) : State :=
  (List.range' k n).foldl (fun v j => v.sentFor .check (BitVec.ofNat 8 (j + 1))) s

theorem foldl_range_sentFor (n : Nat) (s : State) :
    (List.range n).foldl (fun v k => v.sentFor .check (BitVec.ofNat 8 (k + 1))) s = checksSent 0 n s := by
  rw [List.range_eq_range']
  rfl

theorem checksSent_succ (k n : Nat) (s : State) :
    checksSent k (n + 1) s = checksSent (k + 1) n (s.sentFor .check (BitVec.ofNat 8 (k + 1))) := rfl

theorem checksSent_setSqr (k n : Nat) (q : Sequencer) (s : State) :
    checksSent k n (s.setSqr q) = (checksSent k n s).setSqr q := by
  induction n generalizing k s with
  | zero => rfl
  | succ n ih => rw [checksSent_succ, sentFor_setSqr, ih, ← checksSent_succ]

/-- A CHECK predicts the state the register has (43_protocol_driver.md R211). -/
theorem sentFor_check_drv (ch : Byte) (s : State) :
    (s.sentFor .check ch).drv = { relayState := s.drv.relayState, lastChannel := ch } := by
  have unchanged : s.drv.relayState.set (ch.toNat - 1) (s.drv.relayState.getD (ch.toNat - 1) false) = s.drv.relayState := by
    by_cases inside : ch.toNat - 1 < s.drv.relayState.length
    · rw [List.getD_eq_getElem _ _ inside, List.set_getElem_self]
    · exact List.set_eq_of_length_le (not_lt.1 inside)
  exact congrArg (Driver.mk · ch) unchanged

theorem checksSent_drv (k n : Nat) (s : State) :
    (checksSent k (n + 1) s).drv = { relayState := s.drv.relayState, lastChannel := BitVec.ofNat 8 (k + n + 1) } := by
  induction n generalizing k s with
  | zero => exact sentFor_check_drv _ s
  | succ n ih => rw [checksSent_succ, ih, sentFor_check_drv, Nat.add_assoc k 1 n, Nat.add_comm 1 n]

/-- INIT's loop with the answer wait 0: every channel to come gets its CHECK and counts one error. -/
theorem initLoop_unwaited (n : Nat) {s : State} (legal : s.cfg.legal) (bound : s.tx.txq.length ≤ s.cfg.cap)
    (noWait : s.answerWaitMs = 0) (channel : s.sqr.initCh.toNat + n = s.cfg.channels) :
    initLoop n s =
      ((checksSent s.sqr.initCh.toNat n s).setSqr
        { s.sqr with
          initCh := s.sqr.initCh + BitVec.ofNat 8 n
          initErrs := s.sqr.initErrs + BitVec.ofNat 8 n }).initEnd := by
  induction n generalizing s with
  | zero => simp only [BitVec.add_zero]; rfl
  | succ n ih =>
    have few := channels_le_of_legal legal
    have next := toNat_add_one (x := s.sqr.initCh) (by omega)
    have channelNumber : BitVec.ofNat 8 (s.sqr.initCh.toNat + 1) = s.sqr.initCh + 1#8 := by
      rw [← next, BitVec.ofNat_toNat, BitVec.setWidth_eq]
    have counted (x : Byte) : x + 1#8 + BitVec.ofNat 8 n = x + BitVec.ofNat 8 (n + 1) := by
      rw [BitVec.ofNat_add, BitVec.add_assoc, BitVec.add_comm 1#8]
    rw [initLoop_counts ⟨by omega, by omega⟩ n bound (.inr noWait)]
    refine (ih ?legal ?bound ?noWait ?channel).trans ?_
    case legal => exact legal
    case bound => exact sentFor_txq_le _ _ bound
    case noWait => exact noWait
    case channel =>
      show (s.sqr.initCh + 1#8).toNat + n = s.cfg.channels
      omega
    rw [checksSent_setSqr, checksSent_succ, channelNumber, ← counted, ← counted, ← next]
    rfl

/-- Settles O28: the loop without a wait runs over all channels, and no CHECK changes a register. -/
theorem initWithoutWait : Obligations.InitWithoutWait := by
  intro s u c legal opened waitHi waitLo bound channels sent
  rw [foldl_range_sentFor] at sent
  subst sent
  obtain ⟨n, count⟩ : ∃ n, s.cfg.channels = n + 1 := Nat.exists_eq_add_of_le' legal.1
  have noWait : s.answerWaitMs = 0 := by simp [State.answerWaitMs, waitHi, waitLo]
  have number : BitVec.ofNat 8 s.cfg.channels = c := by rw [← channels, BitVec.ofNat_toNat, BitVec.setWidth_eq]
  constructor
  · rw [← number, count, checksSent_drv, Nat.zero_add]
  · have loop := initLoop_unwaited (s := s.initBegin) s.cfg.channels legal bound noWait (Nat.zero_add _)
    have checks : checksSent 0 s.cfg.channels s.initBegin = (checksSent 0 s.cfg.channels s).setSqr s.initBegin.sqr :=
      checksSent_setSqr _ _ _ _
    simp only [initBegin_sqr, BitVec.zero_add, number, BitVec.toNat_zero] at loop checks
    rw [exec_init_of_open opened, loop, checks, ← channels, BitVec.ofNat_toNat]
    rfl

/-! ## The end of a wait -/

/-- Settles O30: after the last channel the loop has no turn left. -/
theorem initLastChannelEnds : Obligations.InitLastChannelEnds := by
  intro s waiting active last
  have ends : answerWaitEnds s = ((recvFrom s.waitOver).1.countErr (recvFrom s.waitOver).2).initEnd := by
    rw [answerWaitEnds_init s active, last, Nat.sub_self, initLoop_zero]
  obtain ⟨d, q, h, recv, -, -⟩ := recvFrom_frame s.waitOver
  refine ⟨answerWait_ended waiting, ?_⟩
  rw [ends, recv]
  refine ⟨rfl, rfl, rfl, ?_, fun t e opened ran count => ?_⟩
  · rw [BitVec.ofNat_toNat]
    rfl
  · obtain rfl := eq_of_exec_recv (s := s.waitOver) opened ran
    rw [count, recv, BitVec.ofNat_toNat]
    rfl

/-- Settles O31: RECV leaves the transmit side as it is, so the next turn of the loop finds the room and the wait of before. -/
theorem initGoesOnToNextChannel : Obligations.InitGoesOnToNextChannel := by
  rintro s t _ e _ inv waiting active more ran rfl count rfl
  obtain ⟨⟨legal, ⟨bound, -⟩, -, -⟩, agrees, -, -, -⟩ := (inv_iff s).1 inv
  have opened : s.lnk.link = .opened := by simpa [State.sequencerAgrees, waiting] using agrees
  have few := channels_le_of_legal legal
  have next := toNat_add_one (x := s.sqr.initCh) (by omega)
  have hasNext : s.hasNextChannel := ⟨by omega, by omega⟩
  have turns : s.cfg.channels - s.sqr.initCh.toNat = s.cfg.channels - (s.sqr.initCh + 1#8).toNat + 1 := by omega
  have ends := answerWaitEnds_init s active
  obtain rfl := eq_of_exec_recv (s := s.waitOver) opened ran
  subst count
  obtain ⟨d, q, h, recv, -, -⟩ := recvFrom_frame s.waitOver
  rw [turns, recv] at ends
  refine ⟨answerWait_ended waiting, fun room wait => ?_, fun fails => ?_⟩
  · refine ends.trans ((initLoop_waits ?_ _ ?_ ?_ ?_).trans ?_)
    · exact hasNext
    · exact legal
    · exact room
    · exact wait
    · rw [recv]
      rfl
  · refine ends.trans ((initLoop_counts ?_ _ ?_ ?_).trans ?_)
    · exact hasNext
    · exact bound
    · exact fails
    · rw [recv]
      rfl

end Sys2Proof.Machine

/-!
What ends an operation, the permission table, and the fatal state, in which every instruction but RDCSR is refused
(spec/60_exceptions.md R272, R273, R276).
-/

namespace Sys2Proof.Machine

/-- Settles O6: each ending is defined by the fields it writes, and raising an error ends with the error's result. -/
theorem endingWritesOnlyTheResult : Obligations.EndingWritesOnlyTheResult := fun _ _ _ _ => ⟨rfl, rfl, rfl⟩

/-! ## Instructions in the fatal state -/

theorem not_open_of_fatal {s : State} (fatal : s.lnk.link = .fatal) : s.lnk.link ≠ .opened := by simp [fatal]

/-- Only RDCSR is permitted in the fatal state (60_exceptions.md R273). -/
theorem exec_of_fatal {i : Instr} {s : State} (fatal : s.lnk.link = .fatal) (notRead : ∀ a, i ≠ .rdcsr a) :
    exec i s = .next (s.raise .badState) := by
  have shut := not_open_of_fatal fatal
  cases i with
  | enq | flush | poll | deq | pendw | pendr | init | recv => exact exec_of_not_open rfl shut
  | send | sendOff | sendOn | sendOffCheck | sendOnCheck | sendNegateCheck | sendCheck | sendNone | sendError
  | sendReserved => exact exec_of_not_open rfl shut
  | frameOff | frameOn | frameOffCheck | frameOnCheck | frameNegateCheck | frameCheck =>
    exact congrArg Host.Outcome.next (commandFrameOp_of_not_open _ shut)
  | fbOff | fbOn => exact congrArg Host.Outcome.next (feedbackFrameOp_of_not_open _ shut)
  | openLink => exact exec_openLink_not_closed (by simp [fatal])
  | reserved0 | cfgwr | compose | cmd2bool | rdstate => exact ite_fatal_of_fatal fatal _ _
  | rdcsr a => exact absurd rfl (notRead a)

theorem exec_rdcsr_finishes (a : BitVec 4) (s : State) : ∃ r, exec (.rdcsr a) s = .next (s.finish r) := by
  cases read : s.csrRead a with
  | some v => exact ⟨_, exec_rdcsr_of_some read⟩
  | none => exact ⟨_, exec_rdcsr_of_none read⟩

theorem exec_fatal_finishes (i : Instr) {s : State} (fatal : s.lnk.link = .fatal) :
    ∃ r, exec i s = .next (s.finish r) := by
  by_cases read : ∃ a, i = .rdcsr a
  · obtain ⟨a, rfl⟩ := read
    exact exec_rdcsr_finishes a s
  · exact ⟨_, exec_of_fatal fatal (not_exists.1 read)⟩

/-! ## The permission table -/

/-- What is forbidden on an OPEN link: OPEN itself, and CFGWR of the frozen registers. -/
theorem eq_of_permission_opened_badState {i : Instr} (row : permission i .opened = .badState) :
    i = .openLink ∨ ∃ a v, i = .cfgwr a v ∧ a.toNat ≤ 2 := by
  cases i with
  | openLink => exact .inl rfl
  | cfgwr a v =>
    refine .inr ⟨a, v, rfl, ?_⟩
    by_contra notFrozen
    rw [permission, if_neg notFrozen] at row
    split at row
    · exact absurd row nofun
    · exact absurd row nofun
  | _ => exact absurd row nofun

/-- The reserved operation code and CFGWR of a read-only or reserved index are no operations; in the fatal
state they are refused as everything else is. -/
theorem eq_of_permission_illOp {i : Instr} {l : Link} (row : permission i l = .illOp) :
    l ≠ .fatal ∧ (i = .reserved0 ∨ ∃ a v, i = .cfgwr a v ∧ 5 ≤ a.toNat) := by
  cases i with
  | reserved0 =>
    refine ⟨?_, .inl rfl⟩
    rintro rfl
    exact absurd row nofun
  | cfgwr a v =>
    simp only [permission] at row
    split_ifs at row with frozen writable
    · cases l <;> exact absurd row nofun
    · cases l <;> exact absurd row nofun
    · refine ⟨?_, .inr ⟨a, v, rfl, by omega⟩⟩
      rintro rfl
      exact absurd row nofun
  | _ => cases l <;> exact absurd row nofun

theorem exec_reserved0_of_not_fatal {s : State} (notFatal : s.lnk.link ≠ .fatal) :
    exec .reserved0 s = .next (s.raise .illOp) :=
  ite_fatal_of_not_fatal notFatal _ _

/-- The column of the link's state decides: CLOSED refuses what needs the link OPEN, OPEN what needs it CLOSED, FATAL all but
RDCSR. -/
theorem exec_of_permission_badState {i : Instr} {s : State} (notOpening : s.lnk.link ≠ .opening)
    (row : permission i s.lnk.link = .badState) : exec i s = .next (s.raise .badState) := by
  cases link : s.lnk.link with
  | closed =>
    rw [link] at row
    exact exec_of_not_open row (by simp [link])
  | opening => exact absurd link notOpening
  | opened =>
    rw [link] at row
    obtain rfl | ⟨a, v, rfl, frozen⟩ := eq_of_permission_opened_badState row
    · exact exec_openLink_not_closed (by simp [link])
    · rw [exec_cfgwr, if_neg (by simp [link]), if_neg (by omega), if_pos ⟨frozen, by simp [link]⟩]
  | fatal =>
    refine exec_of_fatal link ?_
    rintro a rfl
    exact absurd row nofun

theorem exec_of_permission_illOp {i : Instr} {s : State} (row : permission i s.lnk.link = .illOp) :
    exec i s = .next (s.raise .illOp) := by
  obtain ⟨notFatal, rfl | ⟨a, v, rfl, readOnly⟩⟩ := eq_of_permission_illOp row
  · exact exec_reserved0_of_not_fatal notFatal
  · rw [exec_cfgwr, if_neg notFatal, if_pos readOnly]

/-- Settles O7: by the verdict of the table; RESERVED0 is refused in OPENING as well, where the table has no column. -/
theorem linkPermissions : Obligations.LinkPermissions :=
  ⟨fun _ _ _ notOpening => ⟨exec_of_permission_badState notOpening, exec_of_permission_illOp⟩,
    fun _ => exec_reserved0_of_not_fatal⟩

/-! ## A step in the fatal state -/

theorem portOnly_finish {s : State} (idle : s.sqr.seq = .idle) (r : OpResult) : PortOnly s (s.finish r) := by
  refine ⟨s.sqr.pendOp, (s.finish r).res, s.hist.opLog, s.env, ?_⟩
  rw [State.finish, ← idle]

theorem Acts.portOnly_of_fatal {n : Input} {s t : State} (h : Acts n s t) (fatal : s.lnk.link = .fatal)
    (idle : s.sqr.seq = .idle) : PortOnly s t := by
  cases h with
  | line _ gated =>
    obtain rfl := gated (not_open_of_fatal fatal)
    exact .refl _
  | clock d _ =>
    rw [seqClock_idle d idle]
    exact .refl s
  | wait _ =>
    rw [waitEnds_idle idle]
    exact .refl s
  | notTaken => exact .refl s
  | run c i _ _ _ ran =>
    obtain ⟨r, ended⟩ := exec_fatal_finishes i fatal
    obtain rfl := Host.Outcome.next.inj (ended.symm.trans ran)
    exact portOnly_finish idle r
  | window w e _ _ =>
    rw [feedbackFrameOp_of_not_open _ (not_open_of_fatal fatal)]
    exact portOnly_finish idle _

theorem PortOnly.lnk {s t : State} (h : PortOnly s t) : t.lnk = s.lnk := by
  obtain ⟨_, _, _, _, rfl⟩ := h
  rfl

theorem step_portOnly_of_fatal {s t : State} (fatal : s.lnk.link = .fatal) (idle : s.sqr.seq = .idle)
    (notReset : s.nextInput ≠ .reset) (h : step s = .next t) : PortOnly s t := by
  obtain ⟨u, v, before, act, after⟩ := step_acts notReset h
  have acted : PortOnly u v := act.portOnly_of_fatal (before.lnk ▸ fatal) (before.seq.trans idle)
  exact (before.trans acted).trans after

/-- Settles O45: in the fatal state every step but a reset writes the port's registers, the log and the inputs only. -/
theorem fatalIsSticky : Obligations.FatalIsSticky := by
  intro s t fatal idle notReset h
  obtain ⟨_, _, _, _, rfl⟩ := step_portOnly_of_fatal fatal idle notReset h
  exact ⟨rfl, rfl, rfl, rfl, rfl, rfl, rfl⟩

end Sys2Proof.Machine

/-!
Reset: the step that takes it, and the state it leaves (spec/70_reset_and_hazards.md R300, R301, R302; spec/10_state.md R52).
-/

namespace Sys2Proof.Machine

/-- Settles O38: the step that takes a reset answers with `hardReset`, which is built from the parameters and the inputs alone. -/
theorem resetRestoresEverything : Obligations.ResetRestoresEverything := fun _ _ taken => step_of_react_done taken rfl

theorem relay_resetWith (c : Config) (ch : Byte) : (State.resetWith c).relay ch = false := by
  have registers : (State.resetWith c).drv.relayState = List.replicate c.channels false := rfl
  unfold State.relay
  split
  · rfl
  · simp only [registers, List.getD_eq_getElem?_getD, List.getElem?_replicate]
    split <;> rfl

/-- Settles O39: field by field, the relay registers by `relay_resetWith` for every byte that may name one. -/
theorem resetValues : Obligations.ResetValues := by
  intro c s
  have registers : s.drv.relayState.length = c.channels := List.length_replicate
  have status : { link := .closed, overrun := false, lineErr := false, fcause := .none : LinkStatus }.statusByte = 0x00#8 := by
    decide
  exact ⟨rfl, rfl, rfl, rfl, rfl, rfl, rfl, rfl, rfl, registers, relay_resetWith c, rfl, rfl, rfl, rfl, rfl, status, rfl, rfl,
    rfl, rfl, rfl, rfl, rfl, rfl, rfl, rfl⟩

end Sys2Proof.Machine

/-!
What is under way for the line: bytes only move on towards it, and nothing but the transmit line moves the shifter
(spec/20_memory.md R70; spec/41_line_engine.md R163 to R165).
-/

namespace Sys2Proof.Machine

/-! ## Bytes handed over stay ahead -/

/-- The byte being sent and those staged behind it. -/
def State.outgoing (s : State) : List Byte := s.tx.txSh.byteList ++ s.tx.txStage

theorem outgoing_ne_nil_iff (s : State) : s.outgoing ≠ [] ↔ s.tx.txSh ≠ .idle ∨ s.tx.txStage ≠ [] := by
  cases h : s.tx.txSh with
  | idle => simp [State.outgoing, TxShifter.byteList, h]
  | busy b c k p => simp [State.outgoing, TxShifter.byteList, h]

theorem txStartStep_outgoing (s : State) : (txStartStep s).outgoing = s.outgoing := by
  unfold txStartStep
  split
  · rename_i shifter staged
    simp [State.outgoing, TxShifter.byteList, shifter, staged]
  · rfl

theorem txDoneStep_handed (s : State) :
    (txDoneStep s).hist.lineOut ++ (txDoneStep s).outgoing = s.hist.lineOut ++ s.outgoing := by
  unfold txDoneStep
  split
  · rename_i shifter
    simp [State.outgoing, TxShifter.byteList, shifter]
  · rfl

theorem lineOut_prefix_txDoneStep (s : State) : s.hist.lineOut <+: (txDoneStep s).hist.lineOut := by
  unfold txDoneStep
  split
  · exact List.prefix_append _ _
  · exact List.prefix_rfl

theorem stageByte_lineOut (b : Byte) (s : State) : (stageByte b s).hist.lineOut = s.hist.lineOut := by
  unfold stageByte
  split <;> rfl

theorem stageByte_tx (b : Byte) (s : State) : (stageByte b s).tx = s.tx := by
  unfold stageByte
  split <;> rfl

/-- What has left the block stays recorded. -/
theorem move_lineOut {s t : State} (m : Move s t) : s.hist.lineOut <+: t.hist.lineOut := by
  cases m with
  | txStart => rw [txStartStep_lineOut]
  | txDone => exact lineOut_prefix_txDoneStep s
  | stage b _ => rw [stageByte_lineOut]
  | control | link | log | env | csr | relay | lastChannel | push | flush | poll | take | shift | drop | record | rxShift
  | sync => exact List.prefix_rfl

/-- What has left the block and what is under way only grows at its end. -/
theorem move_handed {s t : State} (m : Move s t) : s.hist.lineOut ++ s.outgoing <+: t.hist.lineOut ++ t.outgoing := by
  cases m with
  | txStart => rw [txStartStep_lineOut, txStartStep_outgoing]
  | txDone => rw [txDoneStep_handed]
  | stage b _ => rw [State.outgoing, State.outgoing, stageByte_lineOut, stageByte_tx]
  | flush => simp [State.outgoing]
  | shift b c c' k k' p p' busy => simp [State.outgoing, TxShifter.byteList, busy]
  | control | link | log | env | csr | relay | lastChannel | push | poll | take | drop | record | rxShift | sync =>
    exact List.prefix_rfl

theorem moves_lineOut {s t : State} (h : Moves s t) : s.hist.lineOut <+: t.hist.lineOut :=
  h.keeps (P := fun u => s.hist.lineOut <+: u.hist.lineOut) (fun _ _ m hu => hu.trans (move_lineOut m)) List.prefix_rfl

theorem moves_handed {s t : State} (h : Moves s t) : s.hist.lineOut ++ s.outgoing <+: t.hist.lineOut ++ t.outgoing :=
  h.keeps (P := fun u => s.hist.lineOut ++ s.outgoing <+: u.hist.lineOut ++ u.outgoing)
    (fun _ _ m hu => hu.trans (move_handed m)) List.prefix_rfl

/-- As long as nothing leaves, something is under way. -/
theorem outgoing_of_moves {s t : State} (h : Moves s t) (stays : t.hist.lineOut.length ≤ s.hist.lineOut.length)
    (owed : s.outgoing ≠ []) : t.outgoing ≠ [] := by
  have same : s.hist.lineOut = t.hist.lineOut := (moves_lineOut h).eq_of_length_le stays
  have kept : s.outgoing <+: t.outgoing := by simpa [same] using moves_handed h
  exact fun none => owed (List.prefix_nil.1 (none ▸ kept))

/-! ## Only the transmit line moves the shifter -/

theorem transmitFrame_txSh (f : Frame) (s : State) : (transmitFrame f s).1.tx.txSh = s.tx.txSh := by
  obtain ⟨q, h, e, shifter⟩ := transmitFrame_frame f s
  rw [e]
  exact shifter

theorem evalWindow_tx (f : Frame) (s : State) : (evalWindow f s).1.tx = s.tx := by rw [(evalWindow_frame f s).1]

theorem recvFrom_tx (s : State) : (recvFrom s).1.tx = s.tx := by
  obtain ⟨d, q, h, e, -, -⟩ := recvFrom_frame s
  rw [e]

theorem sendFrom_txSh (cmd : BitVec 4) (ch : Byte) (s : State) : (sendFrom cmd ch s).1.tx.txSh = s.tx.txSh := by
  have out : (sendOut cmd ch s).1.tx.txSh = s.tx.txSh := transmitFrame_txSh _ _
  unfold sendFrom
  split
  · rfl
  split
  · rfl
  dsimp only
  generalize sendOut cmd ch s = p at out ⊢
  split
  · exact out
  split
  · exact out
  split
  · exact out
  split
  · rwa [recvFrom_tx]
  · exact out

theorem initLoop_txSh (n : Nat) (s : State) : (initLoop n s).tx.txSh = s.tx.txSh := by
  induction n generalizing s with
  | zero => rfl
  | succ n ih =>
    have send := sendFrom_txSh (commandCode .check) s.initNext.sqr.initCh s.initNext
    simp only [initLoop]
    generalize sendFrom _ _ _ = p at send ⊢
    obtain ⟨t, _ | r⟩ := p
    · exact send
    · exact (ih _).trans send

theorem answerWaitEnds_txSh (s : State) : (answerWaitEnds s).tx.txSh = s.tx.txSh := by
  have recv : (recvFrom s.waitOver).1.tx.txSh = s.tx.txSh := congrArg TxPath.txSh (recvFrom_tx s.waitOver)
  simp only [answerWaitEnds]
  split
  · exact (initLoop_txSh _ _).trans recv
  · exact recv

theorem sendOp_txSh (cmd : BitVec 4) (ch : Byte) (s : State) : (sendOp cmd ch s).tx.txSh = s.tx.txSh := by
  have send := sendFrom_txSh cmd ch s
  unfold sendOp
  split
  · rfl
  generalize sendFrom cmd ch s = p at send ⊢
  obtain ⟨t, _ | r⟩ := p
  · exact send
  · exact send

theorem commandFrameOp_txSh (f : Frame) (s : State) : (commandFrameOp f s).tx.txSh = s.tx.txSh := by
  unfold commandFrameOp
  split
  · rfl
  split
  · exact transmitFrame_txSh f s
  · exact transmitFrame_txSh f s

theorem feedbackFrameOp_txSh (f : Frame) (s : State) : (feedbackFrameOp f s).tx.txSh = s.tx.txSh := by
  unfold feedbackFrameOp
  split
  · rfl
  · exact congrArg TxPath.txSh (evalWindow_tx f s)

theorem enqueue_txSh (b : Byte) (s : State) : (s.enqueue b).1.tx.txSh = s.tx.txSh := by
  unfold State.enqueue
  split <;> rfl

theorem exec_txSh (i : Instr) (s : State) : ∃ t, exec i s = .next t ∧ t.tx.txSh = s.tx.txSh := by
  cases i with
  | enq b =>
    simp only [exec, execEnq]
    split
    · exact ⟨_, rfl, rfl⟩
    · exact ⟨_, rfl, enqueue_txSh b s⟩
  | init =>
    simp only [exec, execInit]
    split
    · exact ⟨_, rfl, rfl⟩
    · exact ⟨_, rfl, initLoop_txSh _ s.initBegin⟩
  | recv =>
    simp only [exec, execRecv]
    split
    · exact ⟨_, rfl, rfl⟩
    · exact ⟨_, rfl, congrArg TxPath.txSh (recvFrom_tx s)⟩
  | send | sendOff | sendOn | sendOffCheck | sendOnCheck | sendNegateCheck | sendCheck | sendNone | sendError
  | sendReserved => exact ⟨_, rfl, sendOp_txSh _ _ s⟩
  | frameOff | frameOn | frameOffCheck | frameOnCheck | frameNegateCheck | frameCheck =>
    exact ⟨_, rfl, commandFrameOp_txSh _ s⟩
  | fbOff | fbOn => exact ⟨_, rfl, feedbackFrameOp_txSh _ s⟩
  | reserved0 | cfgwr | openLink | flush | poll | deq | pendw | pendr | compose | cmd2bool | rdstate | rdcsr =>
    simp only [exec, execReserved0, execCfgwr, execOpenLink, execFlush, execPoll, execDeq, execPendw, execPendr, execCompose,
      execCmd2bool, execRdstate, execRdcsr]
    repeat' split
    all_goals exact ⟨_, rfl, rfl⟩

theorem SeqEffect.txSh {s t : State} (h : SeqEffect s t) : t.tx.txSh = s.tx.txSh := by
  cases h with
  | answered => exact answerWaitEnds_txSh s
  | rest | counted | opened | failed | delayed | attempted => rfl

theorem deliverByte_tx (b : Byte) (good : Bool) (s : State) : (deliverByte b good s).tx = s.tx := by
  unfold deliverByte
  repeat' split
  · exact stageByte_tx _ _
  · rfl
  · rfl

theorem receiveSample_tx (x : Bool) (s : State) : (receiveSample x s).tx = s.tx := by
  unfold receiveSample sampleBit
  repeat' split
  case isFalse.isFalse.isFalse => exact deliverByte_tx _ _ _
  all_goals rfl

theorem rxClock_tx (x : Bool) (s : State) : (rxClock x s).tx = s.tx := by
  unfold rxClock
  split
  · exact receiveSample_tx _ s
  · rfl

/-! ## A step that is none of the transmit line -/

/-- The inputs of the transmit line, and a reset. -/
abbrev drivesTx (n : Input) : Prop := n = .txClk ∨ n = .txStart ∨ n = .txDone ∨ n = .reset

theorem PortOnly.txSh {s t : State} (h : PortOnly s t) : t.tx.txSh = s.tx.txSh := by
  obtain ⟨_, _, _, _, rfl⟩ := h
  rfl

/-- What the fetch leaves: the shifter as in `s`. -/
def Fetched.keepsTxSh (s : State) : Fetched → Prop
  | .run _ t _ => t.tx.txSh = s.tx.txSh
  | .done t => t.tx.txSh = s.tx.txSh
  | .notAFrame => True

theorem present_keepsTxSh (c : CodeWord) (s : State) : (present c s).keepsTxSh s := by
  unfold present
  split
  · rfl
  split
  · rfl
  · split
    · rfl
    · trivial
  · split
    · rfl
    · exact feedbackFrameOp_txSh _ s.clearValid

theorem react_keepsTxSh {n : Input} (other : ¬ drivesTx n) (s : State) : (react n s).keepsTxSh s := by
  cases n with
  | present c => exact present_keepsTxSh c s
  | seqClk d => exact (portOnly_logResult s _).txSh.trans (seqEffect_seqClock d s).txSh
  | waitEnd => exact (portOnly_logResult s _).txSh.trans (seqEffect_waitEnds s).txSh
  | rxClk x => exact congrArg TxPath.txSh (rxClock_tx x s)
  | deliver b good => exact congrArg TxPath.txSh (deliverByte_tx b good s)
  | txClk | txStart | txDone | reset => exact absurd (by simp [drivesTx]) other

theorem step_txSh {s t : State} (other : ¬ drivesTx s.nextInput) (h : step s = .next t) : t.tx.txSh = s.tx.txSh := by
  have fetched : (fetch s).keepsTxSh s.afterInput := react_keepsTxSh other _
  have taken := (portOnly_afterInput s).txSh
  cases hf : fetch s with
  | run i u hostOp =>
    rw [hf] at fetched
    obtain ⟨v, hv, same⟩ := exec_txSh i u
    obtain rfl : _ = t := Host.Outcome.next.inj ((step_of_run hf hv).symm.trans h)
    have ran : v.tx.txSh = s.tx.txSh := same.trans (fetched.trans taken)
    split
    · exact (portOnly_logResult u v).txSh.trans ran
    · exact ran
  | done v =>
    rw [hf] at fetched
    obtain rfl : v = t := Host.Outcome.next.inj ((step_of_done hf).symm.trans h)
    exact fetched.trans taken
  | notAFrame => exact absurd ((step_of_notAFrame hf).symm.trans h) nofun

end Sys2Proof.Machine

/-!
Fairness: a rank that every step of a run leaves or lowers, and that the owed steps lower, brings an agent to the end of what it
owes (spec/70_reset_and_hazards.md R318; spec/10_state.md R26).
-/

namespace Sys2Proof.Machine

/-! ## Runs -/

/-- A step brings agent `a` nearer to the end of what it owes: the rank falls, or it stays and the step is none of the agent's. -/
def Owing.Nearer {α : Type} [LT α] (a : Owing) (rank : State → α) (n : Input) (s t : State) : Prop :=
  rank t < rank s ∨ (rank t = rank s ∧ ¬ a.takenBy s n)

/-- If the agent, as long as nothing is done, goes on owing and every step brings it nearer, something is done: else the rank would
have a least value, below which a fair run falls. -/
theorem fair_run_progresses {inputs : Nat → Input} {states : Nat → State} (fair : weaklyFair inputs states) (a : Owing)
    {α : Type} [Preorder α] [WellFoundedLT α] (rank : State → α) {done : State → State → Prop} {k : Nat}
    (owed : a.enabled (states k))
    (advances : ∀ m ≥ k, a.enabled (states m) → done (states m) (states (m + 1)) ∨
      a.enabled (states (m + 1)) ∧ a.Nearer rank (inputs m) (states m) (states (m + 1))) :
    ∃ m ≥ k, done (states m) (states (m + 1)) := by
  by_contra undone
  have goesOn (m : Nat) (hm : k ≤ m) (h : a.enabled (states m)) :
      a.enabled (states (m + 1)) ∧ a.Nearer rank (inputs m) (states m) (states (m + 1)) :=
    (advances m hm h).resolve_left fun h' => undone ⟨m, hm, h'⟩
  have enabled (m : Nat) (hm : k ≤ m) : a.enabled (states m) :=
    Nat.le_induction owed (fun m hm ih => (goesOn m hm ih).1) m hm
  have nearer (m : Nat) (hm : k ≤ m) : a.Nearer rank (inputs m) (states m) (states (m + 1)) := (goesOn m hm (enabled m hm)).2
  obtain ⟨low, hlow, least⟩ := (InvImage.wf (fun m => rank (states m)) wellFounded_lt).has_min {m | k ≤ m} ⟨k, le_refl k⟩
  have falls (m : Nat) (hm : low ≤ m) : rank (states m) ≤ rank (states low) := by
    induction m, hm using Nat.le_induction with
    | base => exact le_rfl
    | succ m hm ih =>
      rcases nearer m (hlow.trans hm) with lower | ⟨same, -⟩
      · exact lower.le.trans ih
      · exact same.le.trans ih
  obtain ⟨m, hm, taken⟩ := fair a low fun m hm => enabled m (hlow.trans hm)
  have later : k ≤ m + 1 := (hlow.trans hm).trans m.le_succ
  rcases nearer m (hlow.trans hm) with lower | ⟨-, notTaken⟩
  · exact least (m + 1) later (lower.trans_le (falls m hm))
  · exact notTaken taken

/-- The state once the one input it is offered is taken. -/
def State.unscheduled (s : State) : State := { s with env := { s.env with schedule := [] } }

theorem eq_of_step_offered {n : Input} {s t u : State} (ran : step (s.offered n) = .next t)
    (reacts : react n s.unscheduled = .done u) : u = t :=
  Host.Outcome.next.inj ((step_of_done (s := s.offered n) reacts).symm.trans ran)

/-! ## Operations -/

/-- How far the sequencer is from IDLE. An OPEN: the attempts left, counted modulo 256 so that no bound on `attempts` is needed,
and a delay stands just above the attempt after it. An answer wait: INIT's channels left. Within a wait, `timer`. -/
def State.operationRank (s : State) : ℕ ×ₗ ℕ :=
  match s.sqr.seq with
  | .idle => toLex (0, 0)
  | .openTry => toLex (2 * (s.csr.maxAttempts - s.sqr.attempts).toNat, 0)
  | .openDelay => toLex (2 * (s.csr.maxAttempts - (s.sqr.attempts + 1#8)).toNat + 1, s.sqr.timer)
  | .sendWait => toLex (if s.sqr.initActive then s.cfg.channels - s.sqr.initCh.toNat else 0, s.sqr.timer)

/-- The operation has ended, or is nearer to its end. -/
abbrev OperationAdvances (s t : State) : Prop := t.sqr.seq = .idle ∨ t.operationRank < s.operationRank

theorem attemptsLeft_succ {max attempts : Byte} (left : attempts ≠ max) :
    (max - attempts).toNat = (max - (attempts + 1#8)).toNat + 1 := by
  bv_omega

theorem PortOnly.operationRank {s t : State} (h : PortOnly s t) : t.operationRank = s.operationRank := by
  obtain ⟨_, _, _, _, rfl⟩ := h
  rfl

theorem LineStep.operationRank {s t : State} (h : LineStep s t) : t.operationRank = s.operationRank := by
  obtain ⟨_, _, _, _, _, rfl⟩ := h
  rfl

theorem openSample_advances (d : Bool) {s : State} (trying : s.sqr.seq = .openTry) : OperationAdvances s (openSample d s) := by
  unfold openSample
  split
  · exact .inl rfl
  split
  · exact .inl rfl
  rename_i left
  have fewer := attemptsLeft_succ left
  refine .inr ?_
  split
  · simp only [State.operationRank, State.openAttempt, trying, Prod.Lex.toLex_lt_toLex]
    omega
  · simp only [State.operationRank, State.startWait, trying, Prod.Lex.toLex_lt_toLex]
    omega

theorem tick_advances {s : State} (waiting : s.waiting) (left : 1 < s.sqr.timer) : OperationAdvances s s.tick := by
  have lower : s.sqr.timer - 1 < s.sqr.timer := by omega
  refine .inr ?_
  rcases waiting with q | q
  · simp [State.operationRank, q, Prod.Lex.toLex_lt_toLex, lower]
  · simp [State.operationRank, q, Prod.Lex.toLex_lt_toLex, lower]

/-- INIT's loop runs to its end, or to the wait of a channel after the one it began at (43_protocol_driver.md R228). -/
theorem initLoop_stops (n : Nat) {s : State} (few : s.sqr.initCh.toNat + n ≤ 255) :
    (initLoop n s).sqr.seq = .idle ∨
      0 < n ∧ (initLoop n s).sqr.seq = .sendWait ∧ s.sqr.initCh.toNat < (initLoop n s).sqr.initCh.toNat := by
  induction n generalizing s with
  | zero => exact .inl rfl
  | succ n ih =>
    have next := toNat_add_one (x := s.sqr.initCh) (by omega)
    have ends := sendFrom_ends (commandCode .check) s.initNext.sqr.initCh s.initNext
    simp only [initLoop]
    generalize sendFrom _ _ _ = p at ends ⊢
    cases ends with
    | @result u r work =>
      have channel : (u.countErr r).sqr.initCh = s.sqr.initCh + 1#8 := by rw [countErr_sqr, work.sqr, initNext_sqr]
      refine (ih (s := u.countErr r) (by rw [channel]; omega)).imp_right ?_
      rintro ⟨-, waits, later⟩
      rw [channel] at later
      have first : s.sqr.initCh.toNat < (s.sqr.initCh + 1#8).toNat := by omega
      exact ⟨n.succ_pos, waits, first.trans later⟩
    | @waits u work positive =>
      refine .inr ⟨n.succ_pos, rfl, ?_⟩
      simp only [startWait_sqr, work.sqr, initNext_sqr]
      omega

theorem answerWaitEnds_advances {s : State} (few : s.cfg.channels ≤ 255) (waiting : s.sqr.seq = .sendWait) :
    OperationAdvances s (answerWaitEnds s) := by
  cases active : s.sqr.initActive with
  | false =>
    rw [answerWaitEnds_send s active]
    exact .inl rfl
  | true =>
    have sameCfg := moves_cfg (moves_answerWaitEnds s)
    have work := work_recvFrom s.waitOver
    rw [answerWaitEnds_init s active] at sameCfg ⊢
    generalize e : (recvFrom s.waitOver).1.countErr (recvFrom s.waitOver).2 = u at sameCfg ⊢
    have channel : u.sqr.initCh = s.sqr.initCh := by rw [← e, countErr_sqr, work.sqr, waitOver_sqr]
    have bound := s.sqr.initCh.isLt
    refine (initLoop_stops (s.cfg.channels - s.sqr.initCh.toNat) (s := u) (by rw [channel]; omega)).imp_right ?_
    rintro ⟨more, waits, later⟩
    rw [channel] at later
    simp only [State.operationRank, waits, waiting, active, sameCfg, if_true, Prod.Lex.toLex_lt_toLex]
    split <;> omega

theorem waitEnds_advances {s : State} (few : s.cfg.channels ≤ 255) (waiting : s.waiting) : OperationAdvances s (waitEnds s) := by
  rcases waiting with q | q
  · rw [waitEnds_sendWait q]
    exact answerWaitEnds_advances few q
  · rw [waitEnds_openDelay q]
    refine .inr ?_
    simp only [State.operationRank, State.openAttempt, q, Prod.Lex.toLex_lt_toLex]
    omega

theorem seqClock_advances (d : Bool) {s : State} (few : s.cfg.channels ≤ 255) (busy : s.sqr.seq ≠ .idle) :
    OperationAdvances s (seqClock d s) := by
  have wait (waiting : s.waiting) : OperationAdvances s (seqClock d s) := by
    by_cases left : 1 < s.sqr.timer
    · rw [seqClock_of_one_lt_timer d waiting left]
      exact tick_advances waiting left
    · rw [seqClock_of_timer_le_one d waiting (not_lt.1 left)]
      exact waitEnds_advances few waiting
  cases q : s.sqr.seq with
  | idle => exact absurd q busy
  | openTry =>
    rw [seqClock_openTry d q]
    exact openSample_advances d q
  | openDelay => exact wait (.inr q)
  | sendWait => exact wait (.inl q)

theorem openTry_of_not_waiting {s : State} (busy : s.sqr.seq ≠ .idle) (notWaiting : ¬ s.waiting) : s.sqr.seq = .openTry := by
  cases q : s.sqr.seq with
  | idle => exact absurd q busy
  | openTry => rfl
  | openDelay => exact absurd (.inr q) notWaiting
  | sendWait => exact absurd (.inl q) notWaiting

/-- While an operation is in progress, a step ends it or brings it nearer to its end: the sequencer's steps by what they do, the
line's because they leave the sequencer alone, and a code word because it is not taken. -/
theorem operation_advances {n : Input} {s t : State} (few : s.cfg.channels ≤ 255) (busy : s.sqr.seq ≠ .idle)
    (ran : step (s.offered n) = .next t) :
    t.sqr.seq = .idle ∨ Owing.seq.Nearer State.operationRank n s t := by
  have sequencer {u : State} (h : OperationAdvances s u) (same : t = State.logResult s.unscheduled u) :
      t.sqr.seq = .idle ∨ Owing.seq.Nearer State.operationRank n s t := by
    have port : PortOnly u t := same ▸ portOnly_logResult s.unscheduled u
    refine h.imp port.seq.trans fun lower => .inl ?_
    rwa [port.operationRank]
  have line {u : State} (writes : LineStep s.unscheduled u) (reacts : react n s.unscheduled = .done u)
      (other : ¬ Owing.seq.takenBy s n) : t.sqr.seq = .idle ∨ Owing.seq.Nearer State.operationRank n s t := by
    obtain rfl := eq_of_step_offered ran reacts
    exact .inr (.inr ⟨writes.operationRank, other⟩)
  cases n with
  | present c => exact line (.refl _) (present_notReady c (s := s.unscheduled) busy) (by simp [Owing.takenBy])
  | seqClk d =>
    exact sequencer (seqClock_advances d (s := s.unscheduled) few busy) (eq_of_step_offered ran rfl).symm
  | waitEnd =>
    have same := (eq_of_step_offered ran rfl).symm
    by_cases waiting : s.waiting
    · exact sequencer (waitEnds_advances (s := s.unscheduled) few waiting) same
    · have trying := openTry_of_not_waiting busy waiting
      rw [waitEnds_openTry (s := s.unscheduled) trying] at same
      have port : PortOnly s.unscheduled t := same ▸ portOnly_logResult s.unscheduled s.unscheduled
      exact .inr (.inr ⟨port.operationRank, by simp [Owing.takenBy, trying]⟩)
  | txClk => exact line (lineStep_txClock _) rfl (by simp [Owing.takenBy])
  | rxClk x => exact line (lineStep_rxClock x _) rfl (by simp [Owing.takenBy])
  | txStart => exact line (lineStep_txStartStep _) rfl (by simp [Owing.takenBy])
  | txDone => exact line (lineStep_txDoneStep _) rfl (by simp [Owing.takenBy])
  | deliver b good => exact line (lineStep_deliverByte b good _) rfl (by simp [Owing.takenBy])
  | reset =>
    obtain rfl := eq_of_step_offered ran rfl
    exact .inl rfl

/-- Every operation ends in a weakly fair run. Of the invariants this needs that INIT's channels are counted without wrapping. -/
theorem fair_run_idle {inputs : Nat → Input} {states : Nat → State} (run : isRun inputs states)
    (fair : weaklyFair inputs states) (legal : (states 0).cfg.legal) (k : Nat) : ∃ m ≥ k, (states m).sqr.seq = .idle := by
  have sameCfg (m : Nat) : (states m).cfg = (states 0).cfg := by
    induction m with
    | zero => rfl
    | succ m ih => exact (step_cfg (run m)).trans ih
  have few (m : Nat) : (states m).cfg.channels ≤ 255 := by
    rw [sameCfg m]
    exact channels_le_of_legal legal
  by_cases idle : (states k).sqr.seq = .idle
  · exact ⟨k, le_rfl, idle⟩
  obtain ⟨m, hm, ended⟩ := fair_run_progresses fair .seq State.operationRank (done := fun _ t => t.sqr.seq = .idle) idle
    fun m _ busy => by
      by_cases ended : (states (m + 1)).sqr.seq = .idle
      · exact .inl ended
      · exact .inr ⟨ended, (operation_advances (few m) busy (run m)).resolve_left ended⟩
  exact ⟨m + 1, hm.trans m.le_succ, ended⟩

/-! ## The transmit line -/

/-- How far the shifter is from TxDone: all of a character, or the bits left and the cycles left of this one. -/
def TxShifter.rank : TxShifter → WithTop ℕ ×ₗ ℕ
  | .idle => toLex (⊤, 0)
  | .busy _ c k p => toLex (((c.length - k : ℕ) : WithTop ℕ), p)

/-- The rank of the transmit line's work. -/
abbrev State.sendingRank (s : State) : WithTop ℕ ×ₗ ℕ := s.tx.txSh.rank

/-- A byte has left the block. -/
abbrev LineOutGrows (s t : State) : Prop := s.hist.lineOut.length < t.hist.lineOut.length

section Sending

variable {s : State} (opened : s.lnk.link = .opened)
include opened

theorem txStartStep_nearer (owed : s.outgoing ≠ []) (idle : s.tx.txSh = .idle) :
    (txStartStep s).sendingRank < s.sendingRank := by
  have staged : s.tx.txStage ≠ [] := by simpa [State.outgoing, TxShifter.byteList, idle] using owed
  obtain ⟨b, rest, e⟩ := List.exists_cons_of_ne_nil staged
  rw [txStartStep_of_staged opened idle e, State.sendingRank, State.sendingRank, idle]
  exact Prod.Lex.toLex_lt_toLex.2 (.inl (WithTop.coe_lt_top _))

theorem txDoneStep_grows {b : Byte} {c : List Bool} {k p : Nat} (busy : s.tx.txSh = .busy b c k p) :
    LineOutGrows s (txDoneStep s) := by
  simp [LineOutGrows, txDoneStep_of_busy opened busy]

/-- A cycle starts a character, counts down, goes on to the next bit, or is the last one and the byte has left. -/
theorem txClock_nearer (owed : s.outgoing ≠ []) :
    LineOutGrows s (txClock s) ∨ (txClock s).sendingRank < s.sendingRank := by
  cases shifter : s.tx.txSh with
  | idle =>
    rw [txClock_of_idle opened shifter]
    exact .inr (txStartStep_nearer opened owed shifter)
  | busy b c k p =>
    have self : s.shiftTo b c k p = s := by rw [State.shiftTo, ← shifter]
    have cycle := txClock_shiftTo b c k p opened
    rw [self] at cycle
    rw [cycle, State.sendingRank, State.sendingRank, shifter]
    split
    · have lower : p - 1 < p := by omega
      exact .inr (Prod.Lex.toLex_lt_toLex.2 (.inr ⟨rfl, lower⟩))
    split
    · have fewer : c.length - (k + 1) < c.length - k := by omega
      exact .inr (Prod.Lex.toLex_lt_toLex.2 (.inl (WithTop.coe_lt_coe.2 fewer)))
    · refine .inl ?_
      rw [LineOutGrows, txStartStep_lineOut]
      exact txDoneStep_grows opened shifter

end Sending

theorem txStartStep_of_busy {s : State} (busy : s.tx.txSh ≠ .idle) : txStartStep s = s := by
  unfold txStartStep
  split
  · rename_i idle _
    exact absurd idle busy
  · rfl

theorem txDoneStep_of_idle {s : State} (idle : s.tx.txSh = .idle) : txDoneStep s = s := by simp [txDoneStep, idle]

/-- While the link stays OPEN and a byte is under way, a step lets a byte leave or brings one nearer to leaving: the transmit line's
steps by what they do, all others because they leave the shifter alone. -/
theorem sending_advances {n : Input} {s t : State} (opened : s.lnk.link = .opened) (stays : t.lnk.link = .opened)
    (owed : s.outgoing ≠ []) (ran : step (s.offered n) = .next t) :
    LineOutGrows s t ∨ Owing.txLine.Nearer State.sendingRank n s t := by
  by_cases drives : drivesTx n
  case neg =>
    have same : t.tx.txSh = s.tx.txSh := step_txSh (s := s.offered n) drives ran
    have other : ¬ Owing.txLine.takenBy s n := fun taken =>
      drives (taken.imp_right fun h => h.imp And.left fun h => .inl h.1)
    exact .inr (.inr ⟨congrArg TxShifter.rank same, other⟩)
  rcases drives with rfl | rfl | rfl | rfl
  · obtain rfl := eq_of_step_offered ran rfl
    exact (txClock_nearer (s := s.unscheduled) opened owed).imp_right .inl
  · obtain rfl := eq_of_step_offered ran rfl
    by_cases idle : s.tx.txSh = .idle
    · exact .inr (.inl (txStartStep_nearer (s := s.unscheduled) opened owed idle))
    · rw [txStartStep_of_busy (s := s.unscheduled) idle]
      exact .inr (.inr ⟨rfl, by simp [Owing.takenBy, idle]⟩)
  · obtain rfl := eq_of_step_offered ran rfl
    cases shifter : s.tx.txSh with
    | idle =>
      rw [txDoneStep_of_idle (s := s.unscheduled) shifter]
      exact .inr (.inr ⟨rfl, by simp [Owing.takenBy, shifter]⟩)
    | busy b c k p => exact .inl (txDoneStep_grows (s := s.unscheduled) opened shifter)
  · obtain rfl := eq_of_step_offered ran rfl
    exact absurd stays nofun

/-- A step after which the link is OPEN is no reset. -/
theorem moves_of_step_to_open {n : Input} {s t : State} (ran : step (s.offered n) = .next t) (opened : t.lnk.link = .opened) :
    Moves (s.offered n) t := by
  refine moves_of_step ?_ ran
  rintro (rfl : n = .reset)
  obtain rfl := eq_of_step_offered ran rfl
  exact absurd opened nofun

/-- While the link stays OPEN, a byte that is staged or being sent leaves in a weakly fair run. -/
theorem fair_run_sends {inputs : Nat → Input} {states : Nat → State} (run : isRun inputs states)
    (fair : weaklyFair inputs states) {k : Nat} (opened : ∀ m ≥ k, (states m).lnk.link = .opened)
    (owed : (states k).tx.txSh ≠ .idle ∨ (states k).tx.txStage ≠ []) : ∃ m ≥ k, LineOutGrows (states k) (states m) := by
  have moves (m : Nat) (hm : k ≤ m) : Moves ((states m).offered (inputs m)) (states (m + 1)) :=
    moves_of_step_to_open (run m) (opened (m + 1) (hm.trans m.le_succ))
  obtain ⟨m, hm, grows⟩ := fair_run_progresses fair .txLine State.sendingRank (done := LineOutGrows) ⟨opened k le_rfl, owed⟩
    fun m hm ⟨now, owing⟩ => by
      have next := opened (m + 1) (hm.trans m.le_succ)
      have under := (outgoing_ne_nil_iff _).2 owing
      by_cases grows : LineOutGrows (states m) (states (m + 1))
      · exact .inl grows
      · have stillUnder := outgoing_of_moves (moves m hm) (not_lt.1 grows) under
        exact .inr ⟨⟨next, (outgoing_ne_nil_iff _).1 stillUnder⟩,
          (sending_advances now next under (run m)).resolve_left grows⟩
  have kept : (states k).hist.lineOut.length ≤ (states m).hist.lineOut.length :=
    Nat.le_induction le_rfl (fun m hm ih => ih.trans (moves_lineOut (moves m hm)).length_le) m hm
  exact ⟨m + 1, hm.trans m.le_succ, kept.trans_lt grows⟩

/-- Settles O37: both halves by `fair_run_progresses`, over the rank of the operation and over that of the character. -/
theorem fairRunsEndOperations : Obligations.FairRunsEndOperations := by
  intro inputs states run fair
  refine ⟨fun inv _ k => ?ends, fun k opened owed => fair_run_sends run fair opened owed⟩
  case ends =>
    obtain ⟨legal, -⟩ := inv
    exact fair_run_idle run fair legal k

end Sys2Proof.Machine
